-- ==== Sys2Proof/Word.lean ====
section
/-! DEFINITION. The word types: a byte, and the 64-bit cell that holds a general register, the program counter or an
address while it is computed (`10_state.md` R20, R26; `20_memory.md` R41). -/

namespace Sys2Proof

/-- One byte of memory or of an instruction (`20_memory.md` R40: "a byte has 8 bits"). -/
abbrev Byte := BitVec 8

/-- The 64-bit cell of a general register, the program counter or an address (`10_state.md` R20, R26). -/
abbrev Word64 := BitVec 64

end Sys2Proof
end

