-- ==== Sys2Proof/Config.lean ====
section
/-! DEFINITION. What an implementation fixes: the types of the implementation parameters of `00_scope.md` R5, their
defaults, and the free values (constants with no body). -/

namespace Sys2Proof

/-- The operating modes of `00_scope.md` R4, R5. No value stands for the 8086 (`00_scope.md` R3(b)). -/
inductive Mode where
  | mode64 | compat32 | compat16 | prot32 | prot16 | real16 | v86
  deriving DecidableEq, Repr

/-- The segment tags of `10_state.md` R30. -/
inductive Seg where
  | cs | ds | es | fs | gs | ss
  deriving DecidableEq, Repr

/-- `LA_BITS` (`00_scope.md` R5: 48 or 57). -/
inductive LaBits where
  | la48 | la57
  deriving DecidableEq, Repr

/-- The groups of faults that `60_exceptions.md` R211 orders: `#UD` for the LOCK prefix, the segment and canonical
conditions (`#SS`, `#GP`), `#AC`, `#PF`. -/
inductive FaultClass where
  | ud | segment | alignment | page
  deriving DecidableEq, Repr

/-- What `SegBase` and `SegCheck` know of one segment (`20_memory.md` R47, R48). `limit = none` is the default "large
enough" segment; `null` says that the register holds a NULL selector. -/
structure SegParams where
  base     : Word64
  limit    : Option Nat
  writable : Bool
  null     : Bool
  deriving DecidableEq, Repr

/-- The parameters of the six segments (`10_state.md` R30). -/
structure SegTable where
  cs : SegParams
  ds : SegParams
  es : SegParams
  fs : SegParams
  gs : SegParams
  ss : SegParams
  deriving DecidableEq, Repr

/-- One piece of a `Translate` map (`20_memory.md` R50): the linear bytes `lin`, …, `lin + len - 1` lie at the physical
bytes `phys`, …, and may be written when `writable`. -/
structure PageRegion where
  lin      : Nat
  len      : Nat
  phys     : Nat
  writable : Bool
  deriving DecidableEq, Repr

/-- A range of physical bytes. -/
structure MemRange where
  start : Nat
  len   : Nat
  deriving DecidableEq, Repr

/-- The implementation parameters of `00_scope.md` R5 with the extent of the program text (`20_memory.md` R58,
`70_reset_and_hazards.md` R231, R232), constants of a run. -/
structure Params where
  /-- `MODE`. -/
  mode : Mode
  /-- `LA_BITS`. -/
  laBits : LaBits
  /-- `CPL`. -/
  cpl : BitVec 2
  /-- `AlignCheckEnabled`. -/
  alignCheckEnabled : Bool
  /-- `SegBase` and `SegCheck`. -/
  segs : SegTable
  /-- `Translate`: `none` is the identity that never faults. -/
  paging : Option (List PageRegion)
  /-- Physical ranges that are device memory (`20_memory.md` R54). -/
  devices : List MemRange
  /-- `FaultOrder`; the classes it leaves out come after those it lists, in the default order (log entry 12). -/
  faultOrder : List FaultClass
  /-- The code-segment offset of the first byte of the program text. -/
  textStart : Word64
  /-- The number of bytes of the program text. -/
  textLen : Nat
  deriving DecidableEq, Repr

/-- The default segment of `20_memory.md` R47, R48: base 0, no limit, writable, no NULL selector. -/
def SegParams.flat : SegParams := ⟨0, none, true, false⟩

/-- Every segment flat. -/
def SegTable.flat : SegTable := ⟨.flat, .flat, .flat, .flat, .flat, .flat⟩

/-- The default `FaultOrder` of `60_exceptions.md` R211. -/
def FaultClass.defaultOrder : List FaultClass := [.ud, .segment, .alignment, .page]

/-- The defaults of `00_scope.md` R5, with no program text (log entries 4 and 6). -/
def Params.default : Params where
  mode := .mode64
  laBits := .la48
  cpl := 3
  alignCheckEnabled := false
  segs := .flat
  paging := none
  devices := []
  faultOrder := FaultClass.defaultOrder
  textStart := 0
  textLen := 0

/-- `UndefinedBit` (`00_scope.md` R5, R11): the bit drawn at the n-th use. A free value: no body, so nothing rests on what
it is. DESIGN CHOICE of the form, safe (log entry 7). -/
opaque Config.undefinedBit : Nat → Bool

/-- `PFCode` (`00_scope.md` R5, `60_exceptions.md` R213) where `20_memory.md` R50 states no code: the error code of a page
fault, a function of the faulting access (the linear address of the byte, the operand's width in bytes, the privilege level,
whether the page is present). A free value, safe (log entry 8). -/
opaque Config.pfCode : Word64 → Nat → BitVec 2 → Bool → BitVec 32

end Sys2Proof
end

