-- ==== Sys2Proof/Syntax.lean ====
section
/-! DEFINITION. The instructions as data: one constructor of `Instr` for each row of spec/opcode_table.json (`30_encoding.md`
R84), over operand forms that keep the fields of the encoding (`30_encoding.md` R60 to R83). -/

namespace Sys2Proof

/-- The four mnemonics (`00_scope.md` R2), selected by the ModRM `reg` field (`30_encoding.md` R69). -/
inductive Mnemonic where
  | rcl | rcr | rol | ror
  deriving DecidableEq, Repr

/-- Operand sizes of 8, 16, 32 and 64 bits (`30_encoding.md` R70). -/
inductive OpSize where
  | b8 | b16 | b32 | b64
  deriving DecidableEq, Repr

/-- The width in bytes (`20_memory.md` R43: `n = SIZE/8`). -/
def OpSize.bytes : OpSize → Nat
  | .b8 => 1 | .b16 => 2 | .b32 => 4 | .b64 => 8

/-- `SIZE`, the width in bits. -/
def OpSize.bits (z : OpSize) : Nat := 8 * z.bytes

/-- Address sizes (`30_encoding.md` R75). -/
inductive AddrSize where
  | a16 | a32 | a64
  deriving DecidableEq, Repr

/-- The legacy prefix bytes of `30_encoding.md` R62. -/
inductive Legacy where
  | opSize | addrSize | seg (s : Seg) | lock | repne | rep
  deriving DecidableEq, Repr

/-- The REX prefix, `0100WRXB` (`30_encoding.md` R64). -/
structure Rex where
  w : Bool
  r : Bool
  x : Bool
  b : Bool
  deriving DecidableEq, Repr

/-- A displacement under 16-bit addressing: none, disp8 or disp16 as `mod` is 0, 1 or 2 (`30_encoding.md` R79). -/
inductive Disp16 where
  | d0 | d8 (v : BitVec 8) | d16 (v : BitVec 16)
  deriving DecidableEq, Repr

/-- A displacement under 32- or 64-bit addressing: none, disp8 or disp32 as `mod` is 0, 1 or 2 (`30_encoding.md` R76). -/
inductive Disp32 where
  | d0 | d8 (v : BitVec 8) | d32 (v : BitVec 32)
  deriving DecidableEq, Repr

/-- The operand that ModRM, SIB and displacement select; the 3-bit fields are those of the encoding and the REX bits that
extend them stand in the instruction (`30_encoding.md` R72, R76, R77, R79). -/
inductive Rm where
  /-- `mod = 3`: a register (R72). -/
  | reg (rm : BitVec 3)
  /-- 16-bit addressing with registers (R79). -/
  | mem16 (rm : BitVec 3) (d : Disp16)
  /-- 16-bit addressing, `mod = 0`, `rm = 6`: disp16 alone (R79). -/
  | mem16Abs (disp : BitVec 16)
  /-- 32- or 64-bit addressing with a base and no SIB byte (R76). -/
  | mem (rm : BitVec 3) (d : Disp32)
  /-- A SIB byte with a base register (R77). -/
  | memSib (scale : BitVec 2) (index base : BitVec 3) (d : Disp32)
  /-- A SIB byte with `mod = 0` and `base = 5`: disp32 in place of the base (R77). -/
  | memSibDisp (scale : BitVec 2) (index : BitVec 3) (disp : BitVec 32)
  /-- `mod = 0`, `rm = 5`: RIP-relative in `Mode64`, absolute elsewhere (R76, R78). -/
  | memDisp32 (disp : BitVec 32)
  deriving DecidableEq, Repr

/-- The count operand (`30_encoding.md` R83): the constant 1 (`M1`), CL (`MC`), the immediate byte (`MI`). -/
inductive Count where
  | one | cl | imm (v : BitVec 8)
  deriving DecidableEq, Repr

/-- What the decoder hands to the executor (`40_rotate_common.md` R111): mnemonic, SIZE, the prefixes in their order, the
REX prefix, the destination locator and the count form. -/
structure Form where
  mn    : Mnemonic
  size  : OpSize
  legacy : List Legacy
  rex   : Option Rex
  rm    : Rm
  count : Count
  deriving DecidableEq, Repr

/-- Why the decoder refuses a byte sequence (`30_encoding.md` R63, R64, R88, R89, R92). Every refusal is safe: it says
nothing about the hardware. -/
inductive DecodeRefusal where
  /-- An F2H or F3H prefix (R63). -/
  | repPrefix
  /-- A CS, DS, ES or SS override in `Mode64` (R63). -/
  | ignoredSegIn64
  /-- A repeated prefix (R63). -/
  | repeatedPrefix
  /-- Two different segment overrides (R63). -/
  | twoSegOverrides
  /-- The byte at the opcode's place is none of C0H, C1H, D0H to D3H (R88 step 3). -/
  | notARotate
  /-- ModRM `reg` is 4 to 7: a shift, out of scope (R92). -/
  | shiftGroup
  /-- The bytes end before the instruction does. -/
  | truncated
  deriving DecidableEq, Repr

/-- The 60 rows of spec/opcode_table.json in the table's order. `l` lists the legacy prefixes in their order; `rex` is the
REX prefix, optional where the row is the same with and without one (`30_encoding.md` R84, R86, R87). -/
inductive Instr where
  /-- `RCL r/m8, 1`: `D0 /2` (R121). -/
  | rclRm8One (l : List Legacy) (rm : Rm)
  /-- `RCL r/m8*, 1`: `REX + D0 /2` (R122). -/
  | rclRm8RexOne (l : List Legacy) (rex : Rex) (rm : Rm)
  /-- `RCL r/m8, CL`: `D2 /2` (R123). -/
  | rclRm8Cl (l : List Legacy) (rm : Rm)
  /-- `RCL r/m8*, CL`: `REX + D2 /2` (R124). -/
  | rclRm8RexCl (l : List Legacy) (rex : Rex) (rm : Rm)
  /-- `RCL r/m8, imm8`: `C0 /2 ib` (R125). -/
  | rclRm8Imm (l : List Legacy) (rm : Rm) (imm : BitVec 8)
  /-- `RCL r/m8*, imm8`: `REX + C0 /2 ib` (R126). -/
  | rclRm8RexImm (l : List Legacy) (rex : Rex) (rm : Rm) (imm : BitVec 8)
  /-- `RCL r/m16, 1`: `D1 /2` (R127). -/
  | rclRm16One (l : List Legacy) (rex : Option Rex) (rm : Rm)
  /-- `RCL r/m16, CL`: `D3 /2` (R128). -/
  | rclRm16Cl (l : List Legacy) (rex : Option Rex) (rm : Rm)
  /-- `RCL r/m16, imm8`: `C1 /2 ib` (R129). -/
  | rclRm16Imm (l : List Legacy) (rex : Option Rex) (rm : Rm) (imm : BitVec 8)
  /-- `RCL r/m32, 1`: `D1 /2` (R130). -/
  | rclRm32One (l : List Legacy) (rex : Option Rex) (rm : Rm)
  /-- `RCL r/m64, 1`: `REX.W + D1 /2` (R131). -/
  | rclRm64One (l : List Legacy) (rex : Rex) (rm : Rm)
  /-- `RCL r/m32, CL`: `D3 /2` (R132). -/
  | rclRm32Cl (l : List Legacy) (rex : Option Rex) (rm : Rm)
  /-- `RCL r/m64, CL`: `REX.W + D3 /2` (R133). -/
  | rclRm64Cl (l : List Legacy) (rex : Rex) (rm : Rm)
  /-- `RCL r/m32, imm8`: `C1 /2 ib` (R134). -/
  | rclRm32Imm (l : List Legacy) (rex : Option Rex) (rm : Rm) (imm : BitVec 8)
  /-- `RCL r/m64, imm8`: `REX.W + C1 /2 ib` (R135). -/
  | rclRm64Imm (l : List Legacy) (rex : Rex) (rm : Rm) (imm : BitVec 8)
  /-- `RCR r/m8, 1`: `D0 /3` (R141). -/
  | rcrRm8One (l : List Legacy) (rm : Rm)
  /-- `RCR r/m8*, 1`: `REX + D0 /3` (R142). -/
  | rcrRm8RexOne (l : List Legacy) (rex : Rex) (rm : Rm)
  /-- `RCR r/m8, CL`: `D2 /3` (R143). -/
  | rcrRm8Cl (l : List Legacy) (rm : Rm)
  /-- `RCR r/m8*, CL`: `REX + D2 /3` (R144). -/
  | rcrRm8RexCl (l : List Legacy) (rex : Rex) (rm : Rm)
  /-- `RCR r/m8, imm8`: `C0 /3 ib` (R145). -/
  | rcrRm8Imm (l : List Legacy) (rm : Rm) (imm : BitVec 8)
  /-- `RCR r/m8*, imm8`: `REX + C0 /3 ib` (R146). -/
  | rcrRm8RexImm (l : List Legacy) (rex : Rex) (rm : Rm) (imm : BitVec 8)
  /-- `RCR r/m16, 1`: `D1 /3` (R147). -/
  | rcrRm16One (l : List Legacy) (rex : Option Rex) (rm : Rm)
  /-- `RCR r/m16, CL`: `D3 /3` (R148). -/
  | rcrRm16Cl (l : List Legacy) (rex : Option Rex) (rm : Rm)
  /-- `RCR r/m16, imm8`: `C1 /3 ib` (R149). -/
  | rcrRm16Imm (l : List Legacy) (rex : Option Rex) (rm : Rm) (imm : BitVec 8)
  /-- `RCR r/m32, 1`: `D1 /3` (R150). -/
  | rcrRm32One (l : List Legacy) (rex : Option Rex) (rm : Rm)
  /-- `RCR r/m64, 1`: `REX.W + D1 /3` (R151). -/
  | rcrRm64One (l : List Legacy) (rex : Rex) (rm : Rm)
  /-- `RCR r/m32, CL`: `D3 /3` (R152). -/
  | rcrRm32Cl (l : List Legacy) (rex : Option Rex) (rm : Rm)
  /-- `RCR r/m64, CL`: `REX.W + D3 /3` (R153). -/
  | rcrRm64Cl (l : List Legacy) (rex : Rex) (rm : Rm)
  /-- `RCR r/m32, imm8`: `C1 /3 ib` (R154). -/
  | rcrRm32Imm (l : List Legacy) (rex : Option Rex) (rm : Rm) (imm : BitVec 8)
  /-- `RCR r/m64, imm8`: `REX.W + C1 /3 ib` (R155). -/
  | rcrRm64Imm (l : List Legacy) (rex : Rex) (rm : Rm) (imm : BitVec 8)
  /-- `ROL r/m8, 1`: `D0 /0` (R161). -/
  | rolRm8One (l : List Legacy) (rm : Rm)
  /-- `ROL r/m8*, 1`: `REX + D0 /0` (R162). -/
  | rolRm8RexOne (l : List Legacy) (rex : Rex) (rm : Rm)
  /-- `ROL r/m8, CL`: `D2 /0` (R163). -/
  | rolRm8Cl (l : List Legacy) (rm : Rm)
  /-- `ROL r/m8*, CL`: `REX + D2 /0` (R164). -/
  | rolRm8RexCl (l : List Legacy) (rex : Rex) (rm : Rm)
  /-- `ROL r/m8, imm8`: `C0 /0 ib` (R165). -/
  | rolRm8Imm (l : List Legacy) (rm : Rm) (imm : BitVec 8)
  /-- `ROL r/m8*, imm8`: `REX + C0 /0 ib` (R166). -/
  | rolRm8RexImm (l : List Legacy) (rex : Rex) (rm : Rm) (imm : BitVec 8)
  /-- `ROL r/m16, 1`: `D1 /0` (R167). -/
  | rolRm16One (l : List Legacy) (rex : Option Rex) (rm : Rm)
  /-- `ROL r/m16, CL`: `D3 /0` (R168). -/
  | rolRm16Cl (l : List Legacy) (rex : Option Rex) (rm : Rm)
  /-- `ROL r/m16, imm8`: `C1 /0 ib` (R169). -/
  | rolRm16Imm (l : List Legacy) (rex : Option Rex) (rm : Rm) (imm : BitVec 8)
  /-- `ROL r/m32, 1`: `D1 /0` (R170). -/
  | rolRm32One (l : List Legacy) (rex : Option Rex) (rm : Rm)
  /-- `ROL r/m64, 1`: `REX.W + D1 /0` (R171). -/
  | rolRm64One (l : List Legacy) (rex : Rex) (rm : Rm)
  /-- `ROL r/m32, CL`: `D3 /0` (R172). -/
  | rolRm32Cl (l : List Legacy) (rex : Option Rex) (rm : Rm)
  /-- `ROL r/m64, CL`: `REX.W + D3 /0` (R173). -/
  | rolRm64Cl (l : List Legacy) (rex : Rex) (rm : Rm)
  /-- `ROL r/m32, imm8`: `C1 /0 ib` (R174). -/
  | rolRm32Imm (l : List Legacy) (rex : Option Rex) (rm : Rm) (imm : BitVec 8)
  /-- `ROL r/m64, imm8`: `REX.W + C1 /0 ib` (R175). -/
  | rolRm64Imm (l : List Legacy) (rex : Rex) (rm : Rm) (imm : BitVec 8)
  /-- `ROR r/m8, 1`: `D0 /1` (R181). -/
  | rorRm8One (l : List Legacy) (rm : Rm)
  /-- `ROR r/m8*, 1`: `REX + D0 /1` (R182). -/
  | rorRm8RexOne (l : List Legacy) (rex : Rex) (rm : Rm)
  /-- `ROR r/m8, CL`: `D2 /1` (R183). -/
  | rorRm8Cl (l : List Legacy) (rm : Rm)
  /-- `ROR r/m8*, CL`: `REX + D2 /1` (R184). -/
  | rorRm8RexCl (l : List Legacy) (rex : Rex) (rm : Rm)
  /-- `ROR r/m8, imm8`: `C0 /1 ib` (R185). -/
  | rorRm8Imm (l : List Legacy) (rm : Rm) (imm : BitVec 8)
  /-- `ROR r/m8*, imm8`: `REX + C0 /1 ib` (R186). -/
  | rorRm8RexImm (l : List Legacy) (rex : Rex) (rm : Rm) (imm : BitVec 8)
  /-- `ROR r/m16, 1`: `D1 /1` (R187). -/
  | rorRm16One (l : List Legacy) (rex : Option Rex) (rm : Rm)
  /-- `ROR r/m16, CL`: `D3 /1` (R188). -/
  | rorRm16Cl (l : List Legacy) (rex : Option Rex) (rm : Rm)
  /-- `ROR r/m16, imm8`: `C1 /1 ib` (R189). -/
  | rorRm16Imm (l : List Legacy) (rex : Option Rex) (rm : Rm) (imm : BitVec 8)
  /-- `ROR r/m32, 1`: `D1 /1` (R190). -/
  | rorRm32One (l : List Legacy) (rex : Option Rex) (rm : Rm)
  /-- `ROR r/m64, 1`: `REX.W + D1 /1` (R191). -/
  | rorRm64One (l : List Legacy) (rex : Rex) (rm : Rm)
  /-- `ROR r/m32, CL`: `D3 /1` (R192). -/
  | rorRm32Cl (l : List Legacy) (rex : Option Rex) (rm : Rm)
  /-- `ROR r/m64, CL`: `REX.W + D3 /1` (R193). -/
  | rorRm64Cl (l : List Legacy) (rex : Rex) (rm : Rm)
  /-- `ROR r/m32, imm8`: `C1 /1 ib` (R194). -/
  | rorRm32Imm (l : List Legacy) (rex : Option Rex) (rm : Rm) (imm : BitVec 8)
  /-- `ROR r/m64, imm8`: `REX.W + C1 /1 ib` (R195). -/
  | rorRm64Imm (l : List Legacy) (rex : Rex) (rm : Rm) (imm : BitVec 8)
  deriving DecidableEq, Repr

end Sys2Proof
end

