-- ==== Sys2Proof/Decode.lean ====
section
/-! DEFINITION. The decoder, total on any bytes and rejecting by name, and after it the encoder, both from the encoding
tables of `30_encoding.md` (R60 to R93). -/

namespace Sys2Proof

/-! ## Mode defaults -/

/-- `DefaultOperandSize(MODE)` (`00_scope.md` R5). -/
def defaultOperandSize : Mode → OpSize
  | .mode64 | .compat32 | .prot32 => .b32
  | .compat16 | .prot16 | .real16 | .v86 => .b16

/-- `DefaultAddressSize(MODE)` (`00_scope.md` R5). -/
def defaultAddressSize : Mode → AddrSize
  | .mode64 => .a64
  | .compat32 | .prot32 => .a32
  | .compat16 | .prot16 | .real16 | .v86 => .a16

/-! ## Legacy prefixes -/

/-- The prefix bytes of R62. -/
def legacyOf (b : Byte) : Option Legacy :=
  match b.toNat with
  | 0x26 => some (.seg .es)
  | 0x2E => some (.seg .cs)
  | 0x36 => some (.seg .ss)
  | 0x3E => some (.seg .ds)
  | 0x64 => some (.seg .fs)
  | 0x65 => some (.seg .gs)
  | 0x66 => some .opSize
  | 0x67 => some .addrSize
  | 0xF0 => some .lock
  | 0xF2 => some .repne
  | 0xF3 => some .rep
  | _ => none

/-- R88 step 1: the legacy prefixes at the front of the bytes, and the bytes after them. -/
def splitLegacy : List Byte → List Legacy × List Byte
  | [] => ([], [])
  | b :: bs =>
    match legacyOf b with
    | some p => (p :: (splitLegacy bs).1, (splitLegacy bs).2)
    | none => ([], b :: bs)

/-- Some prefix of the list occurs twice. -/
def hasRepeat : List Legacy → Bool
  | [] => false
  | p :: ps => ps.contains p || hasRepeat ps

/-- F2H or F3H. -/
def isRepPrefix : Legacy → Bool
  | .repne | .rep => true
  | _ => false

/-- A segment override. -/
def isSegPrefix : Legacy → Bool
  | .seg _ => true
  | _ => false

/-- The overrides that `Mode64` does not admit (R63). -/
def isIgnoredIn64 : Legacy → Bool
  | .seg .cs | .seg .ds | .seg .es | .seg .ss => true
  | _ => false

/-- R63: the prefix combinations the decoder refuses. DESIGN CHOICE of the order of the reasons, safe (log entry 23). -/
def legacyRefusal (m : Mode) (l : List Legacy) : Option DecodeRefusal :=
  if l.any isRepPrefix then some .repPrefix
  else if m = .mode64 ∧ l.any isIgnoredIn64 = true then some .ignoredSegIn64
  else if hasRepeat l then some .repeatedPrefix
  else if 1 < (l.filter isSegPrefix).length then some .twoSegOverrides
  else none

/-- The segment override, when there is one (R80). -/
def segOverride (l : List Legacy) : Option Seg :=
  l.findSome? fun p => match p with
    | .seg s => some s
    | _ => none

/-! ## REX, opcode, ModRM fields -/

/-- R64: 40H to 4FH is `0100WRXB`. -/
def rexOf (b : Byte) : Option Rex :=
  if b.extractLsb' 4 4 = 4 then some ⟨b.getLsbD 3, b.getLsbD 2, b.getLsbD 1, b.getLsbD 0⟩ else none

/-- R88 step 2: in `Mode64` a byte 40H to 4FH here is the REX prefix; elsewhere there is none (R66). -/
def splitRex (m : Mode) (bs : List Byte) : Option Rex × List Byte :=
  match bs with
  | [] => (none, [])
  | b :: r => if m = .mode64 ∧ (rexOf b).isSome = true then (rexOf b, r) else (none, b :: r)

/-- The count column of the opcode grid (R67). -/
inductive CountKind where
  | one | cl | imm
  deriving DecidableEq, Repr

/-- R67: the six opcode bytes; the Boolean says that the operand is wider than 8 bits (bit 0 of the opcode). -/
def opcodeOf (b : Byte) : Option (Bool × CountKind) :=
  match b.toNat with
  | 0xC0 => some (false, .imm)
  | 0xC1 => some (true, .imm)
  | 0xD0 => some (false, .one)
  | 0xD1 => some (true, .one)
  | 0xD2 => some (false, .cl)
  | 0xD3 => some (true, .cl)
  | _ => none

/-- R69: the ModRM `reg` field selects the mnemonic; 4 to 7 select instructions out of scope (R92). -/
def mnemonicOf (d : BitVec 3) : Option Mnemonic :=
  match d.toNat with
  | 0 => some .rol
  | 1 => some .ror
  | 2 => some .rcl
  | 3 => some .rcr
  | _ => none

/-- R70: operand size. `wide` is false for C0H, D0H, D2H. -/
def operandSize (m : Mode) (l : List Legacy) (rex : Option Rex) (wide : Bool) : OpSize :=
  if !wide then .b8
  else if (rex.map Rex.w).getD false then .b64
  else if l.contains .opSize then
    match defaultOperandSize m with
    | .b32 => .b16
    | _ => .b32
  else defaultOperandSize m

/-- R75: address size. -/
def addressSize (m : Mode) (l : List Legacy) : AddrSize :=
  if l.contains .addrSize then
    match defaultAddressSize m with
    | .a64 => .a32
    | .a32 => .a16
    | .a16 => .a32
  else defaultAddressSize m

/-! ## SIB, displacement, immediate -/

/-- One byte. -/
def take8 : List Byte → Option (BitVec 8 × List Byte)
  | a :: r => some (a, r)
  | _ => none

/-- Two bytes, little-endian (R81). -/
def take16 : List Byte → Option (BitVec 16 × List Byte)
  | a :: b :: r => some (b ++ a, r)
  | _ => none

/-- Four bytes, little-endian (R81). -/
def take32 : List Byte → Option (BitVec 32 × List Byte)
  | a :: b :: c :: d :: r => some (d ++ c ++ b ++ a, r)
  | _ => none

/-- R79: the memory forms of 16-bit addressing. -/
def decodeMem16 (mod : BitVec 2) (rm : BitVec 3) (r : List Byte) : Option (Rm × List Byte) :=
  if mod = 0 then
    if rm = 6 then (take16 r).map fun q => (.mem16Abs q.1, q.2) else some (.mem16 rm .d0, r)
  else if mod = 1 then (take8 r).map fun q => (.mem16 rm (.d8 q.1), q.2)
  else (take16 r).map fun q => (.mem16 rm (.d16 q.1), q.2)

/-- R77: the forms with a SIB byte, whose fields are `scale`, `index`, `base`. -/
def decodeSib (mod : BitVec 2) (sib : Byte) (r : List Byte) : Option (Rm × List Byte) :=
  let scale := sib.extractLsb' 6 2
  let index := sib.extractLsb' 3 3
  let base := sib.extractLsb' 0 3
  if mod = 0 then
    if base = 5 then (take32 r).map fun q => (.memSibDisp scale index q.1, q.2)
    else some (.memSib scale index base .d0, r)
  else if mod = 1 then (take8 r).map fun q => (.memSib scale index base (.d8 q.1), q.2)
  else (take32 r).map fun q => (.memSib scale index base (.d32 q.1), q.2)

/-- R76: the memory forms of 32- and 64-bit addressing. -/
def decodeMem (mod : BitVec 2) (rm : BitVec 3) (r : List Byte) : Option (Rm × List Byte) :=
  if rm = 4 then
    match r with
    | sib :: r' => decodeSib mod sib r'
    | [] => none
  else if mod = 0 then
    if rm = 5 then (take32 r).map fun q => (.memDisp32 q.1, q.2) else some (.mem rm .d0, r)
  else if mod = 1 then (take8 r).map fun q => (.mem rm (.d8 q.1), q.2)
  else (take32 r).map fun q => (.mem rm (.d32 q.1), q.2)

/-- R68, R72, R74: the operand that ModRM (`mod` bits 7:6, `rm` bits 2:0) and the bytes after it select. -/
def decodeRm (a : AddrSize) (modrm : Byte) (r : List Byte) : Option (Rm × List Byte) :=
  let mod := modrm.extractLsb' 6 2
  let rm := modrm.extractLsb' 0 3
  if mod = 3 then some (.reg rm, r)
  else if a = .a16 then decodeMem16 mod rm r
  else decodeMem mod rm r

/-- R82, R83: the count operand; `imm8` is the last byte of the instruction. -/
def decodeCount (k : CountKind) (r : List Byte) : Option (Count × List Byte) :=
  match k with
  | .one => some (.one, r)
  | .cl => some (.cl, r)
  | .imm => (take8 r).map fun q => (.imm q.1, q.2)

/-! ## The decoder -/

/-- R88: the decoding procedure, from the bytes at `pc`; it answers the decoded form and the bytes after it. The LOCK prefix
is kept in the form (R90: the executor raises `#UD`). -/
def decodeForm (m : Mode) (bs : List Byte) : Except DecodeRefusal (Form × List Byte) :=
  let p := splitLegacy bs
  match legacyRefusal m p.1 with
  | some e => .error e
  | none =>
    let q := splitRex m p.2
    match q.2 with
    | [] => .error .truncated
    | op :: r =>
      match opcodeOf op with
      | none => .error .notARotate
      | some (wide, k) =>
        match r with
        | [] => .error .truncated
        | modrm :: r =>
          match mnemonicOf (modrm.extractLsb' 3 3) with
          | none => .error .shiftGroup
          | some mn =>
            match decodeRm (addressSize m p.1) modrm r with
            | none => .error .truncated
            | some (rm, r) =>
              match decodeCount k r with
              | none => .error .truncated
              | some (c, r) => .ok (⟨mn, operandSize m p.1 q.1 wide, p.1, q.1, rm, c⟩, r)

/-- The REX prefix of a 64-bit row; R70 gives SIZE = 64 only with one, so the default is never used by the decoder. -/
def rex64 (r : Option Rex) : Rex := r.getD ⟨true, false, false, false⟩

/-- R85: the row of R84 with this mnemonic, SIZE, count form and, for SIZE = 8, REX variant. -/
def Instr.ofForm (f : Form) : Instr :=
  match f.mn, f.size, f.count with
  | .rcl, .b8, .one =>
    match f.rex with
    | none => .rclRm8One f.legacy f.rm
    | some r => .rclRm8RexOne f.legacy r f.rm
  | .rcl, .b8, .cl =>
    match f.rex with
    | none => .rclRm8Cl f.legacy f.rm
    | some r => .rclRm8RexCl f.legacy r f.rm
  | .rcl, .b8, .imm v =>
    match f.rex with
    | none => .rclRm8Imm f.legacy f.rm v
    | some r => .rclRm8RexImm f.legacy r f.rm v
  | .rcl, .b16, .one => .rclRm16One f.legacy f.rex f.rm
  | .rcl, .b16, .cl => .rclRm16Cl f.legacy f.rex f.rm
  | .rcl, .b16, .imm v => .rclRm16Imm f.legacy f.rex f.rm v
  | .rcl, .b32, .one => .rclRm32One f.legacy f.rex f.rm
  | .rcl, .b64, .one => .rclRm64One f.legacy (rex64 f.rex) f.rm
  | .rcl, .b32, .cl => .rclRm32Cl f.legacy f.rex f.rm
  | .rcl, .b64, .cl => .rclRm64Cl f.legacy (rex64 f.rex) f.rm
  | .rcl, .b32, .imm v => .rclRm32Imm f.legacy f.rex f.rm v
  | .rcl, .b64, .imm v => .rclRm64Imm f.legacy (rex64 f.rex) f.rm v
  | .rcr, .b8, .one =>
    match f.rex with
    | none => .rcrRm8One f.legacy f.rm
    | some r => .rcrRm8RexOne f.legacy r f.rm
  | .rcr, .b8, .cl =>
    match f.rex with
    | none => .rcrRm8Cl f.legacy f.rm
    | some r => .rcrRm8RexCl f.legacy r f.rm
  | .rcr, .b8, .imm v =>
    match f.rex with
    | none => .rcrRm8Imm f.legacy f.rm v
    | some r => .rcrRm8RexImm f.legacy r f.rm v
  | .rcr, .b16, .one => .rcrRm16One f.legacy f.rex f.rm
  | .rcr, .b16, .cl => .rcrRm16Cl f.legacy f.rex f.rm
  | .rcr, .b16, .imm v => .rcrRm16Imm f.legacy f.rex f.rm v
  | .rcr, .b32, .one => .rcrRm32One f.legacy f.rex f.rm
  | .rcr, .b64, .one => .rcrRm64One f.legacy (rex64 f.rex) f.rm
  | .rcr, .b32, .cl => .rcrRm32Cl f.legacy f.rex f.rm
  | .rcr, .b64, .cl => .rcrRm64Cl f.legacy (rex64 f.rex) f.rm
  | .rcr, .b32, .imm v => .rcrRm32Imm f.legacy f.rex f.rm v
  | .rcr, .b64, .imm v => .rcrRm64Imm f.legacy (rex64 f.rex) f.rm v
  | .rol, .b8, .one =>
    match f.rex with
    | none => .rolRm8One f.legacy f.rm
    | some r => .rolRm8RexOne f.legacy r f.rm
  | .rol, .b8, .cl =>
    match f.rex with
    | none => .rolRm8Cl f.legacy f.rm
    | some r => .rolRm8RexCl f.legacy r f.rm
  | .rol, .b8, .imm v =>
    match f.rex with
    | none => .rolRm8Imm f.legacy f.rm v
    | some r => .rolRm8RexImm f.legacy r f.rm v
  | .rol, .b16, .one => .rolRm16One f.legacy f.rex f.rm
  | .rol, .b16, .cl => .rolRm16Cl f.legacy f.rex f.rm
  | .rol, .b16, .imm v => .rolRm16Imm f.legacy f.rex f.rm v
  | .rol, .b32, .one => .rolRm32One f.legacy f.rex f.rm
  | .rol, .b64, .one => .rolRm64One f.legacy (rex64 f.rex) f.rm
  | .rol, .b32, .cl => .rolRm32Cl f.legacy f.rex f.rm
  | .rol, .b64, .cl => .rolRm64Cl f.legacy (rex64 f.rex) f.rm
  | .rol, .b32, .imm v => .rolRm32Imm f.legacy f.rex f.rm v
  | .rol, .b64, .imm v => .rolRm64Imm f.legacy (rex64 f.rex) f.rm v
  | .ror, .b8, .one =>
    match f.rex with
    | none => .rorRm8One f.legacy f.rm
    | some r => .rorRm8RexOne f.legacy r f.rm
  | .ror, .b8, .cl =>
    match f.rex with
    | none => .rorRm8Cl f.legacy f.rm
    | some r => .rorRm8RexCl f.legacy r f.rm
  | .ror, .b8, .imm v =>
    match f.rex with
    | none => .rorRm8Imm f.legacy f.rm v
    | some r => .rorRm8RexImm f.legacy r f.rm v
  | .ror, .b16, .one => .rorRm16One f.legacy f.rex f.rm
  | .ror, .b16, .cl => .rorRm16Cl f.legacy f.rex f.rm
  | .ror, .b16, .imm v => .rorRm16Imm f.legacy f.rex f.rm v
  | .ror, .b32, .one => .rorRm32One f.legacy f.rex f.rm
  | .ror, .b64, .one => .rorRm64One f.legacy (rex64 f.rex) f.rm
  | .ror, .b32, .cl => .rorRm32Cl f.legacy f.rex f.rm
  | .ror, .b64, .cl => .rorRm64Cl f.legacy (rex64 f.rex) f.rm
  | .ror, .b32, .imm v => .rorRm32Imm f.legacy f.rex f.rm v
  | .ror, .b64, .imm v => .rorRm64Imm f.legacy (rex64 f.rex) f.rm v

/-- The columns of an instruction's row (R84, R87) with its operands. -/
def Instr.form : Instr → Form
  | .rclRm8One l rm => ⟨.rcl, .b8, l, none, rm, .one⟩
  | .rclRm8RexOne l rex rm => ⟨.rcl, .b8, l, some rex, rm, .one⟩
  | .rclRm8Cl l rm => ⟨.rcl, .b8, l, none, rm, .cl⟩
  | .rclRm8RexCl l rex rm => ⟨.rcl, .b8, l, some rex, rm, .cl⟩
  | .rclRm8Imm l rm imm => ⟨.rcl, .b8, l, none, rm, .imm imm⟩
  | .rclRm8RexImm l rex rm imm => ⟨.rcl, .b8, l, some rex, rm, .imm imm⟩
  | .rclRm16One l rex rm => ⟨.rcl, .b16, l, rex, rm, .one⟩
  | .rclRm16Cl l rex rm => ⟨.rcl, .b16, l, rex, rm, .cl⟩
  | .rclRm16Imm l rex rm imm => ⟨.rcl, .b16, l, rex, rm, .imm imm⟩
  | .rclRm32One l rex rm => ⟨.rcl, .b32, l, rex, rm, .one⟩
  | .rclRm64One l rex rm => ⟨.rcl, .b64, l, some rex, rm, .one⟩
  | .rclRm32Cl l rex rm => ⟨.rcl, .b32, l, rex, rm, .cl⟩
  | .rclRm64Cl l rex rm => ⟨.rcl, .b64, l, some rex, rm, .cl⟩
  | .rclRm32Imm l rex rm imm => ⟨.rcl, .b32, l, rex, rm, .imm imm⟩
  | .rclRm64Imm l rex rm imm => ⟨.rcl, .b64, l, some rex, rm, .imm imm⟩
  | .rcrRm8One l rm => ⟨.rcr, .b8, l, none, rm, .one⟩
  | .rcrRm8RexOne l rex rm => ⟨.rcr, .b8, l, some rex, rm, .one⟩
  | .rcrRm8Cl l rm => ⟨.rcr, .b8, l, none, rm, .cl⟩
  | .rcrRm8RexCl l rex rm => ⟨.rcr, .b8, l, some rex, rm, .cl⟩
  | .rcrRm8Imm l rm imm => ⟨.rcr, .b8, l, none, rm, .imm imm⟩
  | .rcrRm8RexImm l rex rm imm => ⟨.rcr, .b8, l, some rex, rm, .imm imm⟩
  | .rcrRm16One l rex rm => ⟨.rcr, .b16, l, rex, rm, .one⟩
  | .rcrRm16Cl l rex rm => ⟨.rcr, .b16, l, rex, rm, .cl⟩
  | .rcrRm16Imm l rex rm imm => ⟨.rcr, .b16, l, rex, rm, .imm imm⟩
  | .rcrRm32One l rex rm => ⟨.rcr, .b32, l, rex, rm, .one⟩
  | .rcrRm64One l rex rm => ⟨.rcr, .b64, l, some rex, rm, .one⟩
  | .rcrRm32Cl l rex rm => ⟨.rcr, .b32, l, rex, rm, .cl⟩
  | .rcrRm64Cl l rex rm => ⟨.rcr, .b64, l, some rex, rm, .cl⟩
  | .rcrRm32Imm l rex rm imm => ⟨.rcr, .b32, l, rex, rm, .imm imm⟩
  | .rcrRm64Imm l rex rm imm => ⟨.rcr, .b64, l, some rex, rm, .imm imm⟩
  | .rolRm8One l rm => ⟨.rol, .b8, l, none, rm, .one⟩
  | .rolRm8RexOne l rex rm => ⟨.rol, .b8, l, some rex, rm, .one⟩
  | .rolRm8Cl l rm => ⟨.rol, .b8, l, none, rm, .cl⟩
  | .rolRm8RexCl l rex rm => ⟨.rol, .b8, l, some rex, rm, .cl⟩
  | .rolRm8Imm l rm imm => ⟨.rol, .b8, l, none, rm, .imm imm⟩
  | .rolRm8RexImm l rex rm imm => ⟨.rol, .b8, l, some rex, rm, .imm imm⟩
  | .rolRm16One l rex rm => ⟨.rol, .b16, l, rex, rm, .one⟩
  | .rolRm16Cl l rex rm => ⟨.rol, .b16, l, rex, rm, .cl⟩
  | .rolRm16Imm l rex rm imm => ⟨.rol, .b16, l, rex, rm, .imm imm⟩
  | .rolRm32One l rex rm => ⟨.rol, .b32, l, rex, rm, .one⟩
  | .rolRm64One l rex rm => ⟨.rol, .b64, l, some rex, rm, .one⟩
  | .rolRm32Cl l rex rm => ⟨.rol, .b32, l, rex, rm, .cl⟩
  | .rolRm64Cl l rex rm => ⟨.rol, .b64, l, some rex, rm, .cl⟩
  | .rolRm32Imm l rex rm imm => ⟨.rol, .b32, l, rex, rm, .imm imm⟩
  | .rolRm64Imm l rex rm imm => ⟨.rol, .b64, l, some rex, rm, .imm imm⟩
  | .rorRm8One l rm => ⟨.ror, .b8, l, none, rm, .one⟩
  | .rorRm8RexOne l rex rm => ⟨.ror, .b8, l, some rex, rm, .one⟩
  | .rorRm8Cl l rm => ⟨.ror, .b8, l, none, rm, .cl⟩
  | .rorRm8RexCl l rex rm => ⟨.ror, .b8, l, some rex, rm, .cl⟩
  | .rorRm8Imm l rm imm => ⟨.ror, .b8, l, none, rm, .imm imm⟩
  | .rorRm8RexImm l rex rm imm => ⟨.ror, .b8, l, some rex, rm, .imm imm⟩
  | .rorRm16One l rex rm => ⟨.ror, .b16, l, rex, rm, .one⟩
  | .rorRm16Cl l rex rm => ⟨.ror, .b16, l, rex, rm, .cl⟩
  | .rorRm16Imm l rex rm imm => ⟨.ror, .b16, l, rex, rm, .imm imm⟩
  | .rorRm32One l rex rm => ⟨.ror, .b32, l, rex, rm, .one⟩
  | .rorRm64One l rex rm => ⟨.ror, .b64, l, some rex, rm, .one⟩
  | .rorRm32Cl l rex rm => ⟨.ror, .b32, l, rex, rm, .cl⟩
  | .rorRm64Cl l rex rm => ⟨.ror, .b64, l, some rex, rm, .cl⟩
  | .rorRm32Imm l rex rm imm => ⟨.ror, .b32, l, rex, rm, .imm imm⟩
  | .rorRm64Imm l rex rm imm => ⟨.ror, .b64, l, some rex, rm, .imm imm⟩

/-- The decoder: the instruction at the front of the bytes, and the bytes after it. -/
def decode (m : Mode) (bs : List Byte) : Except DecodeRefusal (Instr × List Byte) :=
  match decodeForm m bs with
  | .ok (f, r) => .ok (Instr.ofForm f, r)
  | .error e => .error e

/-! ## The length of an instruction -/

/-- The SIB and displacement bytes of an operand (R61, R76, R77, R79). -/
def extraLength : Rm → Nat
  | .reg _ => 0
  | .mem16 _ .d0 => 0
  | .mem16 _ (.d8 _) => 1
  | .mem16 _ (.d16 _) => 2
  | .mem16Abs _ => 2
  | .mem _ .d0 => 0
  | .mem _ (.d8 _) => 1
  | .mem _ (.d32 _) => 4
  | .memSib _ _ _ .d0 => 1
  | .memSib _ _ _ (.d8 _) => 2
  | .memSib _ _ _ (.d32 _) => 5
  | .memSibDisp _ _ _ => 5
  | .memDisp32 _ => 4

/-- `L`, the length of the whole instruction in bytes (R61). -/
def Form.length (f : Form) : Nat :=
  f.legacy.length + (if f.rex.isSome then 1 else 0) + 1 + 1 + extraLength f.rm +
    (match f.count with
      | .imm _ => 1
      | _ => 0)

/-! ## The prefixes of a form -/

/-- A LOCK prefix stands before the instruction (`30_encoding.md` R62). -/
def Form.lock (f : Form) : Bool := f.legacy.contains .lock

/-- REX.B, 0 without a REX prefix (`30_encoding.md` R65, R88). -/
def Form.rexB (f : Form) : Bool := (f.rex.map Rex.b).getD false

/-- REX.X, 0 without a REX prefix (`30_encoding.md` R65, R88). -/
def Form.rexX (f : Form) : Bool := (f.rex.map Rex.x).getD false

/-- A register code: the REX bit above the 3-bit field (`30_encoding.md` R72, R76, R77). -/
def regCode (ext : Bool) (low : BitVec 3) : BitVec 4 := BitVec.ofBool ext ++ low

/-! ## The encoder -/

/-- The byte of a legacy prefix (R62). -/
def legacyByte : Legacy → Byte
  | .seg .es => 0x26
  | .seg .cs => 0x2E
  | .seg .ss => 0x36
  | .seg .ds => 0x3E
  | .seg .fs => 0x64
  | .seg .gs => 0x65
  | .opSize => 0x66
  | .addrSize => 0x67
  | .lock => 0xF0
  | .repne => 0xF2
  | .rep => 0xF3

/-- The REX byte `0100WRXB` (R64). -/
def rexByte (r : Rex) : Byte :=
  (0x4 : BitVec 4) ++ BitVec.ofBool r.w ++ BitVec.ofBool r.r ++ BitVec.ofBool r.x ++ BitVec.ofBool r.b

/-- The REX prefix, when there is one. -/
def rexBytes : Option Rex → List Byte
  | none => []
  | some r => [rexByte r]

/-- The opcode byte (R67). -/
def opcodeByte (z : OpSize) (c : Count) : Byte :=
  match z, c with
  | .b8, .one => 0xD0
  | .b8, .cl => 0xD2
  | .b8, .imm _ => 0xC0
  | _, .one => 0xD1
  | _, .cl => 0xD3
  | _, .imm _ => 0xC1

/-- `/digit` (R69). -/
def digitOf : Mnemonic → BitVec 3
  | .rol => 0
  | .ror => 1
  | .rcl => 2
  | .rcr => 3

/-- ModRM and SIB both have fields of 2, 3 and 3 bits (R68, R77). -/
def fields233 (hi : BitVec 2) (mid lo : BitVec 3) : Byte := hi ++ mid ++ lo

/-- Two bytes, little-endian (R81). -/
def bytes16 (v : BitVec 16) : List Byte := [v.extractLsb' 0 8, v.extractLsb' 8 8]

/-- Four bytes, little-endian (R81). -/
def bytes32 (v : BitVec 32) : List Byte :=
  [v.extractLsb' 0 8, v.extractLsb' 8 8, v.extractLsb' 16 8, v.extractLsb' 24 8]

/-- ModRM, SIB and displacement of an operand under the `reg` field `d` (R68, R76, R77, R79). -/
def encodeRm (d : BitVec 3) : Rm → List Byte
  | .reg rm => [fields233 3 d rm]
  | .mem16 rm .d0 => [fields233 0 d rm]
  | .mem16 rm (.d8 v) => [fields233 1 d rm, v]
  | .mem16 rm (.d16 v) => fields233 2 d rm :: bytes16 v
  | .mem16Abs v => fields233 0 d 6 :: bytes16 v
  | .mem rm .d0 => [fields233 0 d rm]
  | .mem rm (.d8 v) => [fields233 1 d rm, v]
  | .mem rm (.d32 v) => fields233 2 d rm :: bytes32 v
  | .memSib s i b .d0 => [fields233 0 d 4, fields233 s i b]
  | .memSib s i b (.d8 v) => [fields233 1 d 4, fields233 s i b, v]
  | .memSib s i b (.d32 v) => fields233 2 d 4 :: fields233 s i b :: bytes32 v
  | .memSibDisp s i v => fields233 0 d 4 :: fields233 s i 5 :: bytes32 v
  | .memDisp32 v => fields233 0 d 5 :: bytes32 v

/-- The immediate byte, when there is one (R82). -/
def countBytes : Count → List Byte
  | .imm v => [v]
  | _ => []

/-- R60: the bytes of an instruction at increasing addresses. -/
def encodeForm (f : Form) : List Byte :=
  f.legacy.map legacyByte ++ rexBytes f.rex ++ [opcodeByte f.size f.count] ++ encodeRm (digitOf f.mn) f.rm ++
    countBytes f.count

/-- The encoder. -/
def encode (i : Instr) : List Byte := encodeForm i.form

/-! ## Words numbered as the opcode table numbers them -/

/-- The fetch looks at 15 bytes, the architecture's limit (R61); every admitted spelling is at most 13 bytes long, its LOCK
prefix counted (log entry 23). -/
def maxFetch : Nat := 15

/-- The bytes, lowest address first, of an instruction whose bits are numbered as spec/opcode_table.json numbers them: the
first word is `opcode_byte * 256 + ModRM_byte` (R87), so its upper byte is stored first; later bytes count on from bit 16.
Bits from `nbits` on are 0 (log entry 24). -/
def tableBytes (nbits w : Nat) : List Byte :=
  let v := w % 2 ^ nbits
  BitVec.ofNat 8 (v / 256) :: BitVec.ofNat 8 v ::
    (List.range (maxFetch - 2)).map fun k => BitVec.ofNat 8 (v / 2 ^ (8 * (k + 2)))

/-- What the decoder reads from a word of the opcode table, in the default mode (R5). -/
def decodeTableWord (nbits w : Nat) : Option Instr :=
  match decode Params.default.mode (tableBytes nbits w) with
  | .ok (i, _) => some i
  | .error _ => none

end Sys2Proof
end

