-- ==== Sys2Proof/Machine/State.lean ====
section
/-! DEFINITION. The state of the machine as plain data (`10_state.md`), the reasons a step can stop, and the state after
reset. -/

namespace Sys2Proof.Machine

/-- The byte memory: (physical byte location, byte) pairs in one canonical form, `Memory.wf` of Machine/Ops.lean
(`20_memory.md` R40, R45, R55). -/
abbrev Memory := List Host.Cell

/-- Everything the spec gives the machine (INVENTORY.md, State). `params` is constant through a run (`00_scope.md` R5,
`60_exceptions.md` R220); `draws` and `executed` are the model's own fields (log entries 7 and 28). -/
structure State where
  /-- `x[0]` to `x[15]` (`10_state.md` R20); outside `Mode64` only the low 32 bits of the first eight are architectural. -/
  regs : Vector Word64 16
  /-- The instruction pointer (`10_state.md` R26). -/
  pc : Word64
  /-- CF (`10_state.md` R28). -/
  cf : Bool
  /-- PF (`10_state.md` R28). -/
  pf : Bool
  /-- AF (`10_state.md` R28). -/
  af : Bool
  /-- ZF (`10_state.md` R28). -/
  zf : Bool
  /-- SF (`10_state.md` R28). -/
  sf : Bool
  /-- OF (`10_state.md` R28). -/
  of : Bool
  /-- Memory (`20_memory.md` R40). -/
  mem : Memory
  /-- The parameters of the run (`00_scope.md` R5). -/
  params : Params
  /-- How many undefined bits have been drawn (`00_scope.md` R11). -/
  draws : Nat
  /-- How many bytes of the program text the completed steps of the run have executed (`70_reset_and_hazards.md` R232). -/
  executed : Nat
  deriving DecidableEq, Repr

/-- The exceptions of `60_exceptions.md` R200. Each is raised by a rotate as R206 to R210 say, ends the run and changes
nothing (R214). Safe: the spec describes no delivery, so nothing after a fault can be claimed. The error code is `none` where
the source prints none (real-address mode). -/
inductive Fault where
  /-- `#UD`: a LOCK prefix (R206). Safe. -/
  | ud
  /-- `#SS`: a memory destination through SS beyond the limit or not canonical (R210). Safe. -/
  | ss (code : Option (BitVec 32))
  /-- `#GP`: a memory destination in a segment that is not writable, beyond a limit, through a NULL selector, or not
  canonical (R207). Safe. -/
  | gp (code : Option (BitVec 32))
  /-- `#PF(fault-code)`: `Translate` refuses a byte of a memory destination; carries the code and the linear address of the
  first byte refused (R209, R213). Safe. -/
  | pf (code : BitVec 32) (la : Word64)
  /-- `#AC(0)`: an unaligned memory destination under alignment checking (R208). Safe. -/
  | ac (code : BitVec 32)
  deriving DecidableEq, Repr

/-- What the spec refuses (`00_scope.md` R10: "a refusal says nothing about the hardware"). All are safe. -/
inductive Refusal where
  /-- An arm of exec that has no meaning yet; no arm of this package answers it. Safe. -/
  | notModelled (mnemonic : String)
  /-- step: the bytes at `pc` are no admitted rotate (`30_encoding.md` R88, R89). Safe. -/
  | undecodable (e : DecodeRefusal)
  /-- step: `pc` is not inside the program text, or all of the text has been executed: the run has ended
  (`70_reset_and_hazards.md` R232). Safe. -/
  | endOfProgram
  /-- step: the program text crosses the top of the address space (`92_eei_decisions.md` D10, `10_state.md` R27). Safe. -/
  | textCrossesTop
  /-- step: in `Mode64` the program text crosses the canonical boundary (`10_state.md` R27). Safe. -/
  | textNotCanonical
  /-- step: a byte of the program text is not mapped, against the premise of `70_reset_and_hazards.md` R231(b). Safe. -/
  | textNotFetchable
  /-- A meaning: a REX prefix or a 64-bit operand outside `Mode64`, where the row is N.E. (`30_encoding.md` R66, R91); the
  decoder never gives such a term. Safe. -/
  | notEncodable
  /-- A meaning: a memory destination in device memory (`20_memory.md` R54). Safe. -/
  | deviceMemory
  /-- A meaning: a memory destination that overlaps the program text (`20_memory.md` R58). Safe. -/
  | textOverlap
  deriving DecidableEq, Repr

/-- The machine right after reset: the defaults of `00_scope.md` R5, no program, and the launch values the log names
(entries 1 to 7 and 28), since the spec gives none (`10_state.md` R34). -/
def State.reset : State where
  regs := Vector.replicate 16 0
  pc := 0xFFF0
  cf := false
  pf := false
  af := false
  zf := false
  sf := false
  of := false
  mem := []
  params := Params.default
  draws := 0
  executed := 0

end Sys2Proof.Machine
end

