-- ==== Sys2Proof/Machine/Ops.lean ====
section
/-! DEFINITION. The named operations over memory, registers, addresses and faults (`10_state.md`, `20_memory.md`,
`60_exceptions.md`). -/

namespace Sys2Proof.Machine

/-- The outcome of a step of this machine. -/
abbrev Result := Host.Outcome State Fault Refusal

/-! ## Memory -/

/-- What a byte of memory that is not listed reads as. DESIGN CHOICE, unsafe (log entry 5). -/
def Memory.unlisted : Byte := 0

/-- The byte at physical location `a`. -/
def Memory.read : Memory → Nat → Byte
  | [], _ => Memory.unlisted
  | c :: m, a => if a = c.1 then c.2 else Memory.read m a

/-- Store the byte `v` at physical location `a`, keeping the canonical form. -/
def Memory.write : Memory → Nat → Byte → Memory
  | [], a, v => if v = Memory.unlisted then [] else [(a, v)]
  | c :: m, a, v =>
    if a < c.1 then (if v = Memory.unlisted then c :: m else (a, v) :: c :: m)
    else if a = c.1 then (if v = Memory.unlisted then m else (a, v) :: m)
    else c :: Memory.write m a v

/-- Addresses strictly rising from `lo` on, and no entry equal to what an unlisted byte reads as. -/
def Memory.wfFrom : Nat → Memory → Bool
  | _, [] => true
  | lo, c :: m => decide (lo ≤ c.1) && decide (c.2 ≠ Memory.unlisted) && Memory.wfFrom (c.1 + 1) m

/-- The canonical form of a memory. -/
def Memory.wf (m : Memory) : Bool := Memory.wfFrom 0 m

/-- The bytes at the physical locations of a list, as one little-endian number (`20_memory.md` R42). -/
def Memory.readList (m : Memory) : List Nat → Nat
  | [] => 0
  | a :: as => (Memory.read m a).toNat + 256 * Memory.readList m as

/-- Store a little-endian value at the physical locations of a list, lowest byte first (`20_memory.md` R42, R45). -/
def Memory.writeList (m : Memory) : List Nat → Nat → Memory
  | [], _ => m
  | a :: as, v => Memory.writeList (Memory.write m a (BitVec.ofNat 8 v)) as (v / 256)

/-! ## Registers, flags, program counter -/

/-- `x[c]` (`00_scope.md` R7). -/
def State.reg (s : State) (c : BitVec 4) : Word64 := s.regs[c.toNat]'c.isLt

/-- `x[c] <- v` (`00_scope.md` R7). -/
def State.setReg (s : State) (c : BitVec 4) (v : Word64) : State :=
  { s with regs := s.regs.set c.toNat v c.isLt }

/-- `CF <- b`. -/
def State.setCf (s : State) (b : Bool) : State := { s with cf := b }

/-- `OF <- b`. -/
def State.setOf (s : State) (b : Bool) : State := { s with of := b }

/-- `OF <- undefined_bit()`: a fresh draw (`00_scope.md` R11). -/
def State.drawOf (s : State) : State := { s with of := Config.undefinedBit s.draws, draws := s.draws + 1 }

/-- Replace the memory. -/
def State.setMem (s : State) (m : Memory) : State := { s with mem := m }

/-- `pc <- v`. -/
def State.setPc (s : State) (v : Word64) : State := { s with pc := v }

/-- The mode of the run. -/
def State.mode (s : State) : Mode := s.params.mode

/-- The width of the program counter by mode (`10_state.md` R26). -/
def pcBits : Mode → Nat
  | .mode64 => 64
  | .compat32 | .prot32 => 32
  | .compat16 | .prot16 | .real16 | .v86 => 16

/-- The code offset `n` bytes after `pc`, wrapping at the width of the program counter (`10_state.md` R27). -/
def State.pcPlus (s : State) (n : Nat) : Word64 := BitVec.ofNat 64 ((s.pc.toNat + n) % 2 ^ pcBits s.mode)

/-- A step of `len` bytes completes: `pc <- pc + L` (`10_state.md` R27), and those bytes of the program text are executed
(`70_reset_and_hazards.md` R232; log entry 28). -/
def State.advance (s : State) (len : Nat) : State :=
  { s with pc := s.pcPlus len, executed := s.executed + len }

/-- The flags at their places in EFLAGS: CF 0, bit 1 reads 1, PF 2, AF 4, ZF 6, SF 7, OF 11 (`10_state.md` R29). The other
bits are not modelled and stand at 0 here (log entry 26). -/
def State.flagsImage (s : State) : BitVec 32 :=
  BitVec.ofNat 32 (s.cf.toNat + 2 ^ 1 + s.pf.toNat * 2 ^ 2 + s.af.toNat * 2 ^ 4 + s.zf.toNat * 2 ^ 6 +
    s.sf.toNat * 2 ^ 7 + s.of.toNat * 2 ^ 11)

/-! ## From effective address to memory -/

/-- The parameters of a segment. -/
def State.seg (s : State) : Seg → SegParams
  | .cs => s.params.segs.cs
  | .ds => s.params.segs.ds
  | .es => s.params.segs.es
  | .fs => s.params.segs.fs
  | .gs => s.params.segs.gs
  | .ss => s.params.segs.ss

/-- The width of a linear address (`20_memory.md` R41). -/
def linearBits : Mode → Nat
  | .mode64 => 64
  | _ => 32

/-- `Linear(seg, ea)` (`20_memory.md` R47). -/
def State.linear (s : State) (g : Seg) (ea : Word64) : Word64 :=
  BitVec.ofNat 64 (((s.seg g).base.toNat + ea.toNat) % 2 ^ linearBits s.mode)

/-- The linear address of byte `i` of an access at `la`. Outside `Mode64` it wraps at `2^32`, the width of a linear address
(`20_memory.md` R41). DEDUCED, unsafe (log entry 13). -/
def State.byteAddr (s : State) (la : Word64) (i : Nat) : Word64 :=
  BitVec.ofNat 64 ((la.toNat + i) % 2 ^ linearBits s.mode)

/-- `Translate(la, write)` (`20_memory.md` R50); `none` is a page fault. Real-address mode lists no page fault and is the
identity (`60_exceptions.md` R202, R209; log entry 9). -/
def State.translate (s : State) (la : Word64) (write : Bool) : Option Nat :=
  if s.mode = .real16 then some la.toNat
  else match s.params.paging with
    | none => some la.toNat
    | some rs =>
      match rs.find? fun r => decide (r.lin ≤ la.toNat) && decide (la.toNat < r.lin + r.len) with
      | none => none
      | some r => if write && !r.writable then none else some (r.phys + (la.toNat - r.lin))

/-- A memory operand: its segment, its effective address and its width in bytes (`20_memory.md` R40, R43). -/
structure Access where
  seg : Seg
  ea  : Word64
  n   : Nat
  deriving DecidableEq, Repr

/-- The linear address of an access. -/
def State.accessLinear (s : State) (x : Access) : Word64 := s.linear x.seg x.ea

/-- The linear addresses of the bytes of an access, in ascending order. -/
def State.accessBytes (s : State) (x : Access) : List Word64 :=
  (List.range x.n).map (s.byteAddr (s.accessLinear x))

/-- The physical locations of the bytes of an access (`20_memory.md` R44, R45). Where `Translate` refuses a byte the access
faults before it is used. -/
def State.accessPhys (s : State) (x : Access) : List Nat :=
  (s.accessBytes x).map fun la => (s.translate la true).getD la.toNat

/-! ## The checks of an access -/

/-- Protected and compatibility mode, whose exception lists are the same (`60_exceptions.md` R201, R204). -/
def isProtected : Mode → Bool
  | .prot32 | .prot16 | .compat32 | .compat16 => true
  | _ => false

/-- Some byte `ea + i` exceeds the limit (`20_memory.md` R48). -/
def beyondLimit (p : SegParams) (x : Access) : Bool :=
  match p.limit with
  | none => false
  | some lim => (List.range x.n).any fun i => decide (lim < x.ea.toNat + i)

/-- `#SS` for the SS segment, `#GP` for the others (`60_exceptions.md` R210), with the error code given. -/
def segmentFault (g : Seg) (code : Option (BitVec 32)) : Fault :=
  if g = .ss then .ss code else .gp code

/-- The error code of `#GP` and `#SS`: 0, and none in real-address mode (`60_exceptions.md` R200, R202). -/
def segmentCode : Mode → Option (BitVec 32)
  | .real16 => none
  | _ => some 0

/-- The segments whose NULL selector faults (`60_exceptions.md` R201). -/
def nullFaults : Seg → Bool
  | .ds | .es | .fs | .gs => true
  | .cs | .ss => false

/-- `SegCheck` for a write (`20_memory.md` R48, `60_exceptions.md` R201 to R205, R207), the conditions in the order of the
source's protected-mode list. DESIGN CHOICE of the form, unsafe for parameters no hardware has (log entry 10). -/
def State.segCheck (s : State) (x : Access) : Option Fault :=
  let p := s.seg x.seg
  if (isProtected s.mode || decide (s.mode = .mode64)) && !p.writable then some (.gp (some 0))
  else if s.mode ≠ .mode64 ∧ beyondLimit p x = true then some (segmentFault x.seg (segmentCode s.mode))
  else if isProtected s.mode && nullFaults x.seg && p.null then some (.gp (some 0))
  else none

/-- `LA_BITS` as a number. -/
def laBitsNat : LaBits → Nat
  | .la48 => 48
  | .la57 => 57

/-- Bits 63 down to `LA_BITS-1` are all equal; an address of `2^64` or more is not canonical (`20_memory.md` R49). -/
def isCanonical (k : LaBits) (a : Nat) : Bool :=
  decide (a < 2 ^ (laBitsNat k - 1)) || (decide (2 ^ 64 - 2 ^ (laBitsNat k - 1) ≤ a) && decide (a < 2 ^ 64))

/-- The canonical check of every byte, computed without wrap-around, in `Mode64` (`20_memory.md` R49). -/
def State.canonCheck (s : State) (x : Access) : Option Fault :=
  if s.mode = .mode64 ∧
      ((List.range x.n).all fun i => isCanonical s.params.laBits ((s.accessLinear x).toNat + i)) = false then
    some (segmentFault x.seg (some 0))
  else none

/-- The current privilege level is 3; in virtual-8086 mode it is taken as 3 (`60_exceptions.md` R208). -/
def State.atCpl3 (s : State) : Bool := decide (s.params.cpl = 3) || decide (s.mode = .v86)

/-- `#AC(0)` (`60_exceptions.md` R208, `20_memory.md` R51): alignment checking enabled, the linear address not a multiple of
the width, and CPL 3; never in real-address mode. -/
def State.alignCheck (s : State) (x : Access) : Option Fault :=
  if s.mode ≠ .real16 ∧ s.params.alignCheckEnabled = true ∧ (s.accessLinear x).toNat % x.n ≠ 0 ∧ s.atCpl3 = true then
    some (.ac 0)
  else none

/-- The byte at `la` lies in a present page: `Translate` gives its place when it is not asked for a write (`20_memory.md`
R50). -/
def State.present (s : State) (la : Word64) : Bool := (s.translate la false).isSome

/-- The code of a page fault on a write of `n` bytes refused at `la` (`20_memory.md` R50, `60_exceptions.md` R213): for a
user-mode write 7 when the page is present, hence read-only, and 6 when it is not; elsewhere the parameter `PFCode`. That
user mode is CPL 3 is PRESUMED, unsafe (log entry 8). -/
def State.pageCode (s : State) (n : Nat) (la : Word64) : BitVec 32 :=
  if s.atCpl3 = true then (if s.present la = true then 7 else 6)
  else Config.pfCode la n s.params.cpl (s.present la)

/-- `#PF(fault-code)` at the first byte, in ascending order, that `Translate` refuses for a write (`60_exceptions.md` R209,
R213; `20_memory.md` R50, R52). -/
def State.pageCheck (s : State) (x : Access) : Option Fault :=
  match (s.accessBytes x).find? fun la => (s.translate la true).isNone with
  | none => none
  | some la => some (.pf (s.pageCode x.n la) la)

/-- The place of the destination (`30_encoding.md` R72, R74): a register code or a memory operand. -/
inductive Dest where
  | reg (code : BitVec 4)
  | mem (x : Access)
  deriving DecidableEq, Repr

/-- The fault of one class, when the class applies to this instruction (`60_exceptions.md` R206 to R210, R212). Which fault
a destination in `Mode64` that is both not writable and, through SS, not canonical reports is open: `SegCheck` is taken before
the canonical check, so it is `#GP(0)`. DESIGN CHOICE, unsafe for a claim that names the exception (log entry 10). -/
def State.classFault (s : State) (lock : Bool) (d : Dest) : FaultClass → Option Fault
  | .ud => if lock then some .ud else none
  | .segment =>
    match d with
    | .reg _ => none
    | .mem x => (s.segCheck x).or (s.canonCheck x)
  | .alignment =>
    match d with
    | .reg _ => none
    | .mem x => s.alignCheck x
  | .page =>
    match d with
    | .reg _ => none
    | .mem x => s.pageCheck x

/-- The fault an instruction reports: the first that applies in `FaultOrder` (`60_exceptions.md` R211); for a memory
destination without LOCK it is `CheckAccess` with `write = true` (`20_memory.md` R46, R52; log entry 12). -/
def State.faultOf (s : State) (lock : Bool) (d : Dest) : Option Fault :=
  (s.params.faultOrder ++ FaultClass.defaultOrder).findSome? (s.classFault lock d)

/-- Taking an exception: `raise #XX(code)` ends the step with the named exception and changes nothing; the spec describes no
delivery and no return (`00_scope.md` R7, `60_exceptions.md` R214 to R216). DEDUCED, safe (log entry 14). -/
def raise (e : Fault) : Result := .fault e

/-! ## The program text -/

/-- The physical location of the code byte `n` bytes after `pc` (`20_memory.md` R40: fetched from the same memory through
CS), when it is mapped. The CS limit is not checked: DESIGN CHOICE, unsafe (log entry 29). -/
def State.fetchPhys (s : State) (pc : Word64) : Option Nat := s.translate (s.linear .cs pc) false

/-- The code offset of byte `i` of the program text. A text that crosses the width of the program counter is refused by the
step (log entry 27). -/
def State.textOffset (s : State) (i : Nat) : Word64 :=
  BitVec.ofNat 64 ((s.params.textStart.toNat + i) % 2 ^ pcBits s.mode)

/-- A physical location holds a byte of the program text (`20_memory.md` R58). -/
def State.inText (s : State) (a : Nat) : Bool :=
  (List.range s.params.textLen).any fun i => s.fetchPhys (s.textOffset i) == some a

/-- A physical location is device memory (`20_memory.md` R54). -/
def State.inDevice (s : State) (a : Nat) : Bool :=
  s.params.devices.any fun r => decide (r.start ≤ a) && decide (a < r.start + r.len)

/-- The destinations the spec refuses: device memory (`20_memory.md` R54) and the program text (R58). DESIGN CHOICE of the
form, safe but for a device region left out of the list (log entries 15 and 16). Which refusal is named for a destination that
is both is open: device memory is named first, DESIGN CHOICE, safe (log entry 16). -/
def State.destRefusal (s : State) : Dest → Option Refusal
  | .reg _ => none
  | .mem x =>
    if (s.accessPhys x).any s.inDevice then some .deviceMemory
    else if (s.accessPhys x).any s.inText then some .textOverlap
    else none

end Sys2Proof.Machine
end

