-- ==== Sys2Proof/Machine/Operands.lean ====
section
/-! DEFINITION. The operand forms: register views (`10_state.md` R21 to R25), effective addresses and segments
(`30_encoding.md` R72 to R81), the count operand (R82, R83). -/

namespace Sys2Proof.Machine

/-! ## Register views -/

/-- The register and the lowest bit of the view that a code names: without a REX prefix the byte codes 4 to 7 are AH, CH, DH,
BH, bits 15:8 of registers 0 to 3 (`10_state.md` R24); every other view starts at bit 0. -/
def viewOf (z : OpSize) (code : BitVec 4) (rexPresent : Bool) : BitVec 4 × Nat :=
  if z = .b8 ∧ rexPresent = false ∧ 4 ≤ code.toNat ∧ code.toNat < 8 then (code - 4, 8) else (code, 0)

/-- `ReadReg(SIZE, code, rex_present)` (`10_state.md` R21 to R24). -/
def readReg (z : OpSize) (code : BitVec 4) (rexPresent : Bool) (s : State) : BitVec z.bits :=
  (s.reg (viewOf z code rexPresent).1).extractLsb' (viewOf z code rexPresent).2 z.bits

/-- Replace the bits `off`, …, `off + n - 1` of a register. -/
def insertBits (old : Word64) (off : Nat) {n : Nat} (v : BitVec n) : Word64 :=
  (old &&& ~~~(((BitVec.allOnes n).setWidth 64) <<< off)) ||| ((v.setWidth 64) <<< off)

/-- What a register holds after its view is written: a 32-bit write in `Mode64` clears bits 63:32 (`10_state.md` R22); every
other write replaces the bits of the view (R21 to R24). -/
def mergeReg (m : Mode) (z : OpSize) (off : Nat) (old : Word64) (v : BitVec z.bits) : Word64 :=
  if z = .b64 ∨ (z = .b32 ∧ m = .mode64) then v.setWidth 64 else insertBits old off v

/-- `WriteReg(SIZE, code, rex_present, v)` (`10_state.md` R21 to R24). -/
def writeReg (z : OpSize) (code : BitVec 4) (rexPresent : Bool) (v : BitVec z.bits) (s : State) : State :=
  s.setReg (viewOf z code rexPresent).1
    (mergeReg s.mode z (viewOf z code rexPresent).2 (s.reg (viewOf z code rexPresent).1) v)

/-- `CL`, the low byte of register 1 (`10_state.md` R25). -/
def State.cl (s : State) : BitVec 8 := (s.reg 1).extractLsb' 0 8

/-- `COUNT` (`40_rotate_common.md` R101, `30_encoding.md` R83). -/
def countValue (c : Count) (s : State) : BitVec 8 :=
  match c with
  | .one => 1
  | .cl => s.cl
  | .imm v => v

/-! ## Effective addresses -/

/-- The number of bits of an address size (`30_encoding.md` R75). -/
def addrBits : AddrSize → Nat
  | .a16 => 16
  | .a32 => 32
  | .a64 => 64

/-- Reduce modulo `2^A` and zero-extend (`30_encoding.md` R75). -/
def truncTo (a : AddrSize) (v : Word64) : Word64 := (v.setWidth (addrBits a)).setWidth 64

/-- `G(c)`, the A-bit view of a register (`30_encoding.md` R76, R79). -/
def addrReg (a : AddrSize) (c : BitVec 4) (s : State) : Word64 := truncTo a (s.reg c)

/-- A displacement under 16-bit addressing, sign-extended (`30_encoding.md` R79, R81). -/
def dispValue16 : Disp16 → Word64
  | .d0 => 0
  | .d8 v => v.signExtend 64
  | .d16 v => v.signExtend 64

/-- A displacement under 32- and 64-bit addressing, sign-extended (`30_encoding.md` R76, R81). -/
def dispValue32 : Disp32 → Word64
  | .d0 => 0
  | .d8 v => v.signExtend 64
  | .d32 v => v.signExtend 64

/-- The registers of 16-bit addressing: BX is 3, BP 5, SI 6, DI 7 (`30_encoding.md` R79). -/
def base16 (rm : BitVec 3) (s : State) : Word64 :=
  match rm.toNat with
  | 0 => addrReg .a16 3 s + addrReg .a16 6 s
  | 1 => addrReg .a16 3 s + addrReg .a16 7 s
  | 2 => addrReg .a16 5 s + addrReg .a16 6 s
  | 3 => addrReg .a16 5 s + addrReg .a16 7 s
  | 4 => addrReg .a16 6 s
  | 5 => addrReg .a16 7 s
  | 6 => addrReg .a16 5 s
  | _ => addrReg .a16 3 s

/-- `index_part`: 0 for index code 4, else the register scaled by `2^scale` (`30_encoding.md` R77). -/
def indexPart (a : AddrSize) (x : Bool) (scale : BitVec 2) (index : BitVec 3) (s : State) : Word64 :=
  if regCode x index = 4 then 0 else addrReg a (regCode x index) s <<< scale.toNat

/-- The effective address of a memory form (`30_encoding.md` R76 to R79), reduced modulo `2^A` (R75). A register form has
none. -/
def effectiveAddress (f : Form) (s : State) : Word64 :=
  let a := addressSize s.mode f.legacy
  match f.rm with
  | .reg _ => 0
  | .mem16 rm d => truncTo .a16 (base16 rm s + dispValue16 d)
  | .mem16Abs v => v.setWidth 64
  | .mem rm d => truncTo a (addrReg a (regCode f.rexB rm) s + dispValue32 d)
  | .memSib sc i b d =>
    truncTo a (addrReg a (regCode f.rexB b) s + indexPart a f.rexX sc i s + dispValue32 d)
  | .memSibDisp sc i v => truncTo a (v.signExtend 64 + indexPart a f.rexX sc i s)
  | .memDisp32 v =>
    if s.mode = .mode64 then truncTo a (s.pcPlus f.length + v.signExtend 64) else v.setWidth 64

/-- A base register with code 4 or 5 (rSP, rBP) selects SS; 12 and 13 do not (`30_encoding.md` R80). -/
def baseSegment (c : BitVec 4) : Seg := if c = 4 ∨ c = 5 then .ss else .ds

/-- The segment without an override (`30_encoding.md` R79 last column, R80). -/
def defaultSegment (f : Form) : Seg :=
  match f.rm with
  | .mem16 rm _ => if rm = 2 ∨ rm = 3 ∨ rm = 6 then .ss else .ds
  | .mem rm _ => baseSegment (regCode f.rexB rm)
  | .memSib _ _ b _ => baseSegment (regCode f.rexB b)
  | .reg _ | .mem16Abs _ | .memSibDisp _ _ _ | .memDisp32 _ => .ds

/-- The segment of a memory operand (`30_encoding.md` R80). -/
def segmentOf (f : Form) : Seg := (segOverride f.legacy).getD (defaultSegment f)

/-- The destination: a register (`30_encoding.md` R72) or SIZE/8 bytes of memory (R74). -/
def destOf (f : Form) (s : State) : Dest :=
  match f.rm with
  | .reg rm => .reg (regCode f.rexB rm)
  | _ => .mem ⟨segmentOf f, effectiveAddress f s, f.size.bytes⟩

/-! ## Reading and writing the destination -/

/-- The destination, read once at SIZE bits (`40_rotate_common.md` R105; `20_memory.md` R44 after its checks). -/
def readDest (z : OpSize) (rexPresent : Bool) (d : Dest) (s : State) : BitVec z.bits :=
  match d with
  | .reg c => readReg z c rexPresent s
  | .mem x => BitVec.ofNat z.bits (s.mem.readList (s.accessPhys x))

/-- The result, written once to the place the destination was read from (`40_rotate_common.md` R106; `20_memory.md` R45
after its checks). -/
def writeDest (z : OpSize) (rexPresent : Bool) (d : Dest) (v : BitVec z.bits) (s : State) : State :=
  match d with
  | .reg c => writeReg z c rexPresent v s
  | .mem x => s.setMem (s.mem.writeList (s.accessPhys x) v.toNat)

end Sys2Proof.Machine
end

