-- ==== Sys2Proof/Machine/Flags.lean ====
section
/-! DEFINITION. The count reduction, the four rotate functions with their flag rules (`40_rotate_common.md` R101 to R110;
R120, R140, R160, R180), and the execution of one decoded rotate (R111). -/

namespace Sys2Proof.Machine

/-! ## The count -/

/-- `COUNTMASK` (`40_rotate_common.md` R102). -/
def countMask (z : OpSize) : BitVec 8 := if z = .b64 then 0x3F else 0x1F

/-- The masked count `mc` (`40_rotate_common.md` R102). -/
def maskedCount (z : OpSize) (c : BitVec 8) : Nat := (c &&& countMask z).toNat

/-- `tempCOUNT` of RCL and RCR (`40_rotate_common.md` R103). -/
def carryCount (z : OpSize) (mc : Nat) : Nat :=
  match z with
  | .b8 => mc % 9
  | .b16 => mc % 17
  | .b32 | .b64 => mc

/-- `tempCOUNT` of ROL and ROR (`40_rotate_common.md` R103). -/
def plainCount (z : OpSize) (mc : Nat) : Nat := mc % z.bits

/-! ## The loops -/

/-- The RCL loop (R120): the most-significant bit leaves into CF and the old CF enters bit 0. -/
def rclLoop {n : Nat} : Nat → BitVec n → Bool → BitVec n × Bool
  | 0, d, c => (d, c)
  | t + 1, d, c => rclLoop t ((d <<< 1) ||| (BitVec.ofBool c).setWidth n) d.msb

/-- The RCR loop (R140): the least-significant bit leaves into CF and the old CF enters the most-significant bit. -/
def rcrLoop {n : Nat} : Nat → BitVec n → Bool → BitVec n × Bool
  | 0, d, c => (d, c)
  | t + 1, d, c => rcrLoop t ((d >>> 1) ||| ((BitVec.ofBool c).setWidth n <<< (n - 1))) (d.getLsbD 0)

/-- The ROL loop (R160): the most-significant bit re-enters at bit 0. -/
def rolLoop {n : Nat} : Nat → BitVec n → BitVec n
  | 0, d => d
  | t + 1, d => rolLoop t ((d <<< 1) ||| (BitVec.ofBool d.msb).setWidth n)

/-- The ROR loop (R180): the least-significant bit re-enters at the most-significant bit. -/
def rorLoop {n : Nat} : Nat → BitVec n → BitVec n
  | 0, d => d
  | t + 1, d => rorLoop t ((d >>> 1) ||| ((BitVec.ofBool (d.getLsbD 0)).setWidth n <<< (n - 1)))

/-! ## The functions -/

/-- `of_new` (R120): unchanged, a defined value, or undefined. -/
inductive OfNew where
  | unchanged | set (b : Bool) | undefined
  deriving DecidableEq, Repr

/-- What a rotate function answers: RESULT, `cf_new` (`none` is unchanged) and `of_new`. -/
structure Rotated (n : Nat) where
  result : BitVec n
  cfNew  : Option Bool
  ofNew  : OfNew
  deriving DecidableEq, Repr

/-- `cf_new` (`40_rotate_common.md` R108): unchanged for masked count 0, else the bit given. -/
def cfRule (mc : Nat) (b : Bool) : Option Bool := if mc = 0 then none else some b

/-- `of_new` (`40_rotate_common.md` R109): the bit given counts for masked count 1 only. -/
def ofRule (mc : Nat) (b : Bool) : OfNew :=
  if mc = 0 then .unchanged else if mc = 1 then .set b else .undefined

/-- Bit SIZE-2, `MSB-1` (`00_scope.md` R6). -/
def msb1 {n : Nat} (v : BitVec n) : Bool := v.getLsbD (n - 2)

/-- `RCL(SIZE, DEST, CF, COUNT)` (`41_rcl.md` R120). -/
def rcl (z : OpSize) (d : BitVec z.bits) (c : Bool) (count : BitVec 8) : Rotated z.bits :=
  let mc := maskedCount z count
  let q := rclLoop (carryCount z mc) d c
  ⟨q.1, cfRule mc q.2, ofRule mc (xor q.1.msb q.2)⟩

/-- `RCR(SIZE, DEST, CF, COUNT)` (`42_rcr.md` R140): OF is computed from the operand and CF before the rotate. -/
def rcr (z : OpSize) (d : BitVec z.bits) (c : Bool) (count : BitVec 8) : Rotated z.bits :=
  let mc := maskedCount z count
  let q := rcrLoop (carryCount z mc) d c
  ⟨q.1, cfRule mc q.2, ofRule mc (xor d.msb c)⟩

/-- `ROL(SIZE, DEST, CF, COUNT)` (`43_rol.md` R160); CF is not read. -/
def rol (z : OpSize) (d : BitVec z.bits) (_c : Bool) (count : BitVec 8) : Rotated z.bits :=
  let mc := maskedCount z count
  let r := rolLoop (plainCount z mc) d
  ⟨r, cfRule mc (r.getLsbD 0), ofRule mc (xor r.msb (r.getLsbD 0))⟩

/-- `ROR(SIZE, DEST, CF, COUNT)` (`44_ror.md` R180); CF is not read. -/
def ror (z : OpSize) (d : BitVec z.bits) (_c : Bool) (count : BitVec 8) : Rotated z.bits :=
  let mc := maskedCount z count
  let r := rorLoop (plainCount z mc) d
  ⟨r, cfRule mc r.msb, ofRule mc (xor r.msb (msb1 r))⟩

/-- The function of a mnemonic (`40_rotate_common.md` R111: `F`). -/
def rotate (mn : Mnemonic) (z : OpSize) (d : BitVec z.bits) (c : Bool) (count : BitVec 8) : Rotated z.bits :=
  match mn with
  | .rcl => rcl z d c count
  | .rcr => rcr z d c count
  | .rol => rol z d c count
  | .ror => ror z d c count

/-! ## Writing the flags -/

/-- R111 step 6: CF. -/
def State.applyCf (s : State) : Option Bool → State
  | none => s
  | some b => s.setCf b

/-- R111 step 7: OF; an undefined OF is a fresh free bit (`00_scope.md` R11). -/
def State.applyOf (s : State) : OfNew → State
  | .unchanged => s
  | .set b => s.setOf b
  | .undefined => s.drawOf

/-! ## One decoded rotate -/

/-- What F answers for this form in this state (`40_rotate_common.md` R111 steps 2 to 4). -/
def rotated (f : Form) (s : State) : Rotated f.size.bits :=
  rotate f.mn f.size (readDest f.size f.rex.isSome (destOf f s) s) s.cf (countValue f.count s)

/-- `40_rotate_common.md` R111 steps 5 to 8: the write-back, CF, OF, `pc`. The destination's place, the old destination, the
count and CF are those of the state before (R112). -/
def commit (f : Form) (s : State) : State :=
  (((writeDest f.size f.rex.isSome (destOf f s) (rotated f s).result s).applyCf (rotated f s).cfNew).applyOf
    (rotated f s).ofNew).advance f.length

/-- The row exists in the mode of the state: outside `Mode64` there is no REX prefix and no 64-bit operand
(`30_encoding.md` R66, R91). DEDUCED, safe (log entry 19). -/
def existsInMode (f : Form) (s : State) : Bool :=
  decide (s.mode = .mode64) || (f.rex.isNone && decide (f.size ≠ .b64))

/-- `40_rotate_common.md` R111: the execution of one decoded rotate. Every check is made before the first write, so a step
either faults or is refused with nothing changed, or completes. The order of the refusals and the exceptions is DESIGN CHOICE,
safe (log entry 30). -/
def execRotate (f : Form) (s : State) : Result :=
  if existsInMode f s = false then .refused .notEncodable
  else
    match s.faultOf f.lock (destOf f s) with
    | some e => raise e
    | none =>
      match s.destRefusal (destOf f s) with
      | some r => .refused r
      | none => .next (commit f s)

end Sys2Proof.Machine
end

