-- ==== Sys2Proof/Machine/Rcl.lean ====
section
/-! DEFINITION. RCL, rotate through carry left: the meaning of each of its 15 rows (`41_rcl.md` R121 to R135), over the shared execution
of `40_rotate_common.md` R111 with the function R120. -/

namespace Sys2Proof.Machine

/-- `RCL r/m8, 1`, `D0 /2` (R121). -/
def execRclRm8One (l : List Legacy) (rm : Rm) (s : State) : Result :=
  execRotate ⟨.rcl, .b8, l, none, rm, .one⟩ s

/-- `RCL r/m8*, 1`, `REX + D0 /2` (R122). -/
def execRclRm8RexOne (l : List Legacy) (rex : Rex) (rm : Rm) (s : State) : Result :=
  execRotate ⟨.rcl, .b8, l, some rex, rm, .one⟩ s

/-- `RCL r/m8, CL`, `D2 /2` (R123). -/
def execRclRm8Cl (l : List Legacy) (rm : Rm) (s : State) : Result :=
  execRotate ⟨.rcl, .b8, l, none, rm, .cl⟩ s

/-- `RCL r/m8*, CL`, `REX + D2 /2` (R124). -/
def execRclRm8RexCl (l : List Legacy) (rex : Rex) (rm : Rm) (s : State) : Result :=
  execRotate ⟨.rcl, .b8, l, some rex, rm, .cl⟩ s

/-- `RCL r/m8, imm8`, `C0 /2 ib` (R125). -/
def execRclRm8Imm (l : List Legacy) (rm : Rm) (imm : BitVec 8) (s : State) : Result :=
  execRotate ⟨.rcl, .b8, l, none, rm, .imm imm⟩ s

/-- `RCL r/m8*, imm8`, `REX + C0 /2 ib` (R126). -/
def execRclRm8RexImm (l : List Legacy) (rex : Rex) (rm : Rm) (imm : BitVec 8) (s : State) : Result :=
  execRotate ⟨.rcl, .b8, l, some rex, rm, .imm imm⟩ s

/-- `RCL r/m16, 1`, `D1 /2` (R127). -/
def execRclRm16One (l : List Legacy) (rex : Option Rex) (rm : Rm) (s : State) : Result :=
  execRotate ⟨.rcl, .b16, l, rex, rm, .one⟩ s

/-- `RCL r/m16, CL`, `D3 /2` (R128). -/
def execRclRm16Cl (l : List Legacy) (rex : Option Rex) (rm : Rm) (s : State) : Result :=
  execRotate ⟨.rcl, .b16, l, rex, rm, .cl⟩ s

/-- `RCL r/m16, imm8`, `C1 /2 ib` (R129). -/
def execRclRm16Imm (l : List Legacy) (rex : Option Rex) (rm : Rm) (imm : BitVec 8) (s : State) : Result :=
  execRotate ⟨.rcl, .b16, l, rex, rm, .imm imm⟩ s

/-- `RCL r/m32, 1`, `D1 /2` (R130). -/
def execRclRm32One (l : List Legacy) (rex : Option Rex) (rm : Rm) (s : State) : Result :=
  execRotate ⟨.rcl, .b32, l, rex, rm, .one⟩ s

/-- `RCL r/m64, 1`, `REX.W + D1 /2` (R131). -/
def execRclRm64One (l : List Legacy) (rex : Rex) (rm : Rm) (s : State) : Result :=
  execRotate ⟨.rcl, .b64, l, some rex, rm, .one⟩ s

/-- `RCL r/m32, CL`, `D3 /2` (R132). -/
def execRclRm32Cl (l : List Legacy) (rex : Option Rex) (rm : Rm) (s : State) : Result :=
  execRotate ⟨.rcl, .b32, l, rex, rm, .cl⟩ s

/-- `RCL r/m64, CL`, `REX.W + D3 /2` (R133). -/
def execRclRm64Cl (l : List Legacy) (rex : Rex) (rm : Rm) (s : State) : Result :=
  execRotate ⟨.rcl, .b64, l, some rex, rm, .cl⟩ s

/-- `RCL r/m32, imm8`, `C1 /2 ib` (R134). -/
def execRclRm32Imm (l : List Legacy) (rex : Option Rex) (rm : Rm) (imm : BitVec 8) (s : State) : Result :=
  execRotate ⟨.rcl, .b32, l, rex, rm, .imm imm⟩ s

/-- `RCL r/m64, imm8`, `REX.W + C1 /2 ib` (R135). -/
def execRclRm64Imm (l : List Legacy) (rex : Rex) (rm : Rm) (imm : BitVec 8) (s : State) : Result :=
  execRotate ⟨.rcl, .b64, l, some rex, rm, .imm imm⟩ s

end Sys2Proof.Machine
end

