-- ==== Sys2Proof/Machine/Rcr.lean ====
section
/-! DEFINITION. RCR, rotate through carry right: the meaning of each of its 15 rows (`42_rcr.md` R141 to R155), over the shared execution
of `40_rotate_common.md` R111 with the function R140. -/

namespace Sys2Proof.Machine

/-- `RCR r/m8, 1`, `D0 /3` (R141). -/
def execRcrRm8One (l : List Legacy) (rm : Rm) (s : State) : Result :=
  execRotate ⟨.rcr, .b8, l, none, rm, .one⟩ s

/-- `RCR r/m8*, 1`, `REX + D0 /3` (R142). -/
def execRcrRm8RexOne (l : List Legacy) (rex : Rex) (rm : Rm) (s : State) : Result :=
  execRotate ⟨.rcr, .b8, l, some rex, rm, .one⟩ s

/-- `RCR r/m8, CL`, `D2 /3` (R143). -/
def execRcrRm8Cl (l : List Legacy) (rm : Rm) (s : State) : Result :=
  execRotate ⟨.rcr, .b8, l, none, rm, .cl⟩ s

/-- `RCR r/m8*, CL`, `REX + D2 /3` (R144). -/
def execRcrRm8RexCl (l : List Legacy) (rex : Rex) (rm : Rm) (s : State) : Result :=
  execRotate ⟨.rcr, .b8, l, some rex, rm, .cl⟩ s

/-- `RCR r/m8, imm8`, `C0 /3 ib` (R145). -/
def execRcrRm8Imm (l : List Legacy) (rm : Rm) (imm : BitVec 8) (s : State) : Result :=
  execRotate ⟨.rcr, .b8, l, none, rm, .imm imm⟩ s

/-- `RCR r/m8*, imm8`, `REX + C0 /3 ib` (R146). -/
def execRcrRm8RexImm (l : List Legacy) (rex : Rex) (rm : Rm) (imm : BitVec 8) (s : State) : Result :=
  execRotate ⟨.rcr, .b8, l, some rex, rm, .imm imm⟩ s

/-- `RCR r/m16, 1`, `D1 /3` (R147). -/
def execRcrRm16One (l : List Legacy) (rex : Option Rex) (rm : Rm) (s : State) : Result :=
  execRotate ⟨.rcr, .b16, l, rex, rm, .one⟩ s

/-- `RCR r/m16, CL`, `D3 /3` (R148). -/
def execRcrRm16Cl (l : List Legacy) (rex : Option Rex) (rm : Rm) (s : State) : Result :=
  execRotate ⟨.rcr, .b16, l, rex, rm, .cl⟩ s

/-- `RCR r/m16, imm8`, `C1 /3 ib` (R149). -/
def execRcrRm16Imm (l : List Legacy) (rex : Option Rex) (rm : Rm) (imm : BitVec 8) (s : State) : Result :=
  execRotate ⟨.rcr, .b16, l, rex, rm, .imm imm⟩ s

/-- `RCR r/m32, 1`, `D1 /3` (R150). -/
def execRcrRm32One (l : List Legacy) (rex : Option Rex) (rm : Rm) (s : State) : Result :=
  execRotate ⟨.rcr, .b32, l, rex, rm, .one⟩ s

/-- `RCR r/m64, 1`, `REX.W + D1 /3` (R151). -/
def execRcrRm64One (l : List Legacy) (rex : Rex) (rm : Rm) (s : State) : Result :=
  execRotate ⟨.rcr, .b64, l, some rex, rm, .one⟩ s

/-- `RCR r/m32, CL`, `D3 /3` (R152). -/
def execRcrRm32Cl (l : List Legacy) (rex : Option Rex) (rm : Rm) (s : State) : Result :=
  execRotate ⟨.rcr, .b32, l, rex, rm, .cl⟩ s

/-- `RCR r/m64, CL`, `REX.W + D3 /3` (R153). -/
def execRcrRm64Cl (l : List Legacy) (rex : Rex) (rm : Rm) (s : State) : Result :=
  execRotate ⟨.rcr, .b64, l, some rex, rm, .cl⟩ s

/-- `RCR r/m32, imm8`, `C1 /3 ib` (R154). -/
def execRcrRm32Imm (l : List Legacy) (rex : Option Rex) (rm : Rm) (imm : BitVec 8) (s : State) : Result :=
  execRotate ⟨.rcr, .b32, l, rex, rm, .imm imm⟩ s

/-- `RCR r/m64, imm8`, `REX.W + C1 /3 ib` (R155). -/
def execRcrRm64Imm (l : List Legacy) (rex : Rex) (rm : Rm) (imm : BitVec 8) (s : State) : Result :=
  execRotate ⟨.rcr, .b64, l, some rex, rm, .imm imm⟩ s

end Sys2Proof.Machine
end

