-- ==== Sys2Proof/Machine/Rol.lean ====
section
/-! DEFINITION. ROL, rotate left: the meaning of each of its 15 rows (`43_rol.md` R161 to R175), over the shared execution
of `40_rotate_common.md` R111 with the function R160. -/

namespace Sys2Proof.Machine

/-- `ROL r/m8, 1`, `D0 /0` (R161). -/
def execRolRm8One (l : List Legacy) (rm : Rm) (s : State) : Result :=
  execRotate ⟨.rol, .b8, l, none, rm, .one⟩ s

/-- `ROL r/m8*, 1`, `REX + D0 /0` (R162). -/
def execRolRm8RexOne (l : List Legacy) (rex : Rex) (rm : Rm) (s : State) : Result :=
  execRotate ⟨.rol, .b8, l, some rex, rm, .one⟩ s

/-- `ROL r/m8, CL`, `D2 /0` (R163). -/
def execRolRm8Cl (l : List Legacy) (rm : Rm) (s : State) : Result :=
  execRotate ⟨.rol, .b8, l, none, rm, .cl⟩ s

/-- `ROL r/m8*, CL`, `REX + D2 /0` (R164). -/
def execRolRm8RexCl (l : List Legacy) (rex : Rex) (rm : Rm) (s : State) : Result :=
  execRotate ⟨.rol, .b8, l, some rex, rm, .cl⟩ s

/-- `ROL r/m8, imm8`, `C0 /0 ib` (R165). -/
def execRolRm8Imm (l : List Legacy) (rm : Rm) (imm : BitVec 8) (s : State) : Result :=
  execRotate ⟨.rol, .b8, l, none, rm, .imm imm⟩ s

/-- `ROL r/m8*, imm8`, `REX + C0 /0 ib` (R166). -/
def execRolRm8RexImm (l : List Legacy) (rex : Rex) (rm : Rm) (imm : BitVec 8) (s : State) : Result :=
  execRotate ⟨.rol, .b8, l, some rex, rm, .imm imm⟩ s

/-- `ROL r/m16, 1`, `D1 /0` (R167). -/
def execRolRm16One (l : List Legacy) (rex : Option Rex) (rm : Rm) (s : State) : Result :=
  execRotate ⟨.rol, .b16, l, rex, rm, .one⟩ s

/-- `ROL r/m16, CL`, `D3 /0` (R168). -/
def execRolRm16Cl (l : List Legacy) (rex : Option Rex) (rm : Rm) (s : State) : Result :=
  execRotate ⟨.rol, .b16, l, rex, rm, .cl⟩ s

/-- `ROL r/m16, imm8`, `C1 /0 ib` (R169). -/
def execRolRm16Imm (l : List Legacy) (rex : Option Rex) (rm : Rm) (imm : BitVec 8) (s : State) : Result :=
  execRotate ⟨.rol, .b16, l, rex, rm, .imm imm⟩ s

/-- `ROL r/m32, 1`, `D1 /0` (R170). -/
def execRolRm32One (l : List Legacy) (rex : Option Rex) (rm : Rm) (s : State) : Result :=
  execRotate ⟨.rol, .b32, l, rex, rm, .one⟩ s

/-- `ROL r/m64, 1`, `REX.W + D1 /0` (R171). -/
def execRolRm64One (l : List Legacy) (rex : Rex) (rm : Rm) (s : State) : Result :=
  execRotate ⟨.rol, .b64, l, some rex, rm, .one⟩ s

/-- `ROL r/m32, CL`, `D3 /0` (R172). -/
def execRolRm32Cl (l : List Legacy) (rex : Option Rex) (rm : Rm) (s : State) : Result :=
  execRotate ⟨.rol, .b32, l, rex, rm, .cl⟩ s

/-- `ROL r/m64, CL`, `REX.W + D3 /0` (R173). -/
def execRolRm64Cl (l : List Legacy) (rex : Rex) (rm : Rm) (s : State) : Result :=
  execRotate ⟨.rol, .b64, l, some rex, rm, .cl⟩ s

/-- `ROL r/m32, imm8`, `C1 /0 ib` (R174). -/
def execRolRm32Imm (l : List Legacy) (rex : Option Rex) (rm : Rm) (imm : BitVec 8) (s : State) : Result :=
  execRotate ⟨.rol, .b32, l, rex, rm, .imm imm⟩ s

/-- `ROL r/m64, imm8`, `REX.W + C1 /0 ib` (R175). -/
def execRolRm64Imm (l : List Legacy) (rex : Rex) (rm : Rm) (imm : BitVec 8) (s : State) : Result :=
  execRotate ⟨.rol, .b64, l, some rex, rm, .imm imm⟩ s

end Sys2Proof.Machine
end

