-- ==== Sys2Proof/Machine/Ror.lean ====
section
/-! DEFINITION. ROR, rotate right: the meaning of each of its 15 rows (`44_ror.md` R181 to R195), over the shared execution
of `40_rotate_common.md` R111 with the function R180. -/

namespace Sys2Proof.Machine

/-- `ROR r/m8, 1`, `D0 /1` (R181). -/
def execRorRm8One (l : List Legacy) (rm : Rm) (s : State) : Result :=
  execRotate ⟨.ror, .b8, l, none, rm, .one⟩ s

/-- `ROR r/m8*, 1`, `REX + D0 /1` (R182). -/
def execRorRm8RexOne (l : List Legacy) (rex : Rex) (rm : Rm) (s : State) : Result :=
  execRotate ⟨.ror, .b8, l, some rex, rm, .one⟩ s

/-- `ROR r/m8, CL`, `D2 /1` (R183). -/
def execRorRm8Cl (l : List Legacy) (rm : Rm) (s : State) : Result :=
  execRotate ⟨.ror, .b8, l, none, rm, .cl⟩ s

/-- `ROR r/m8*, CL`, `REX + D2 /1` (R184). -/
def execRorRm8RexCl (l : List Legacy) (rex : Rex) (rm : Rm) (s : State) : Result :=
  execRotate ⟨.ror, .b8, l, some rex, rm, .cl⟩ s

/-- `ROR r/m8, imm8`, `C0 /1 ib` (R185). -/
def execRorRm8Imm (l : List Legacy) (rm : Rm) (imm : BitVec 8) (s : State) : Result :=
  execRotate ⟨.ror, .b8, l, none, rm, .imm imm⟩ s

/-- `ROR r/m8*, imm8`, `REX + C0 /1 ib` (R186). -/
def execRorRm8RexImm (l : List Legacy) (rex : Rex) (rm : Rm) (imm : BitVec 8) (s : State) : Result :=
  execRotate ⟨.ror, .b8, l, some rex, rm, .imm imm⟩ s

/-- `ROR r/m16, 1`, `D1 /1` (R187). -/
def execRorRm16One (l : List Legacy) (rex : Option Rex) (rm : Rm) (s : State) : Result :=
  execRotate ⟨.ror, .b16, l, rex, rm, .one⟩ s

/-- `ROR r/m16, CL`, `D3 /1` (R188). -/
def execRorRm16Cl (l : List Legacy) (rex : Option Rex) (rm : Rm) (s : State) : Result :=
  execRotate ⟨.ror, .b16, l, rex, rm, .cl⟩ s

/-- `ROR r/m16, imm8`, `C1 /1 ib` (R189). -/
def execRorRm16Imm (l : List Legacy) (rex : Option Rex) (rm : Rm) (imm : BitVec 8) (s : State) : Result :=
  execRotate ⟨.ror, .b16, l, rex, rm, .imm imm⟩ s

/-- `ROR r/m32, 1`, `D1 /1` (R190). -/
def execRorRm32One (l : List Legacy) (rex : Option Rex) (rm : Rm) (s : State) : Result :=
  execRotate ⟨.ror, .b32, l, rex, rm, .one⟩ s

/-- `ROR r/m64, 1`, `REX.W + D1 /1` (R191). -/
def execRorRm64One (l : List Legacy) (rex : Rex) (rm : Rm) (s : State) : Result :=
  execRotate ⟨.ror, .b64, l, some rex, rm, .one⟩ s

/-- `ROR r/m32, CL`, `D3 /1` (R192). -/
def execRorRm32Cl (l : List Legacy) (rex : Option Rex) (rm : Rm) (s : State) : Result :=
  execRotate ⟨.ror, .b32, l, rex, rm, .cl⟩ s

/-- `ROR r/m64, CL`, `REX.W + D3 /1` (R193). -/
def execRorRm64Cl (l : List Legacy) (rex : Rex) (rm : Rm) (s : State) : Result :=
  execRotate ⟨.ror, .b64, l, some rex, rm, .cl⟩ s

/-- `ROR r/m32, imm8`, `C1 /1 ib` (R194). -/
def execRorRm32Imm (l : List Legacy) (rex : Option Rex) (rm : Rm) (imm : BitVec 8) (s : State) : Result :=
  execRotate ⟨.ror, .b32, l, rex, rm, .imm imm⟩ s

/-- `ROR r/m64, imm8`, `REX.W + C1 /1 ib` (R195). -/
def execRorRm64Imm (l : List Legacy) (rex : Rex) (rm : Rm) (imm : BitVec 8) (s : State) : Result :=
  execRotate ⟨.ror, .b64, l, some rex, rm, .imm imm⟩ s

end Sys2Proof.Machine
end

