-- ==== Sys2Proof/Machine/Dispatch.lean ====
section
/-! DEFINITION. One arm per row of the opcode table. -/

namespace Sys2Proof.Machine

def exec (i : Instr) (s : State) : Host.Outcome State Fault Refusal :=
  match i with
  | .rclRm8One l rm => Sys2Proof.Machine.execRclRm8One l rm s
  | .rclRm8RexOne l rex rm => Sys2Proof.Machine.execRclRm8RexOne l rex rm s
  | .rclRm8Cl l rm => Sys2Proof.Machine.execRclRm8Cl l rm s
  | .rclRm8RexCl l rex rm => Sys2Proof.Machine.execRclRm8RexCl l rex rm s
  | .rclRm8Imm l rm imm => Sys2Proof.Machine.execRclRm8Imm l rm imm s
  | .rclRm8RexImm l rex rm imm => Sys2Proof.Machine.execRclRm8RexImm l rex rm imm s
  | .rclRm16One l rex rm => Sys2Proof.Machine.execRclRm16One l rex rm s
  | .rclRm16Cl l rex rm => Sys2Proof.Machine.execRclRm16Cl l rex rm s
  | .rclRm16Imm l rex rm imm => Sys2Proof.Machine.execRclRm16Imm l rex rm imm s
  | .rclRm32One l rex rm => Sys2Proof.Machine.execRclRm32One l rex rm s
  | .rclRm64One l rex rm => Sys2Proof.Machine.execRclRm64One l rex rm s
  | .rclRm32Cl l rex rm => Sys2Proof.Machine.execRclRm32Cl l rex rm s
  | .rclRm64Cl l rex rm => Sys2Proof.Machine.execRclRm64Cl l rex rm s
  | .rclRm32Imm l rex rm imm => Sys2Proof.Machine.execRclRm32Imm l rex rm imm s
  | .rclRm64Imm l rex rm imm => Sys2Proof.Machine.execRclRm64Imm l rex rm imm s
  | .rcrRm8One l rm => Sys2Proof.Machine.execRcrRm8One l rm s
  | .rcrRm8RexOne l rex rm => Sys2Proof.Machine.execRcrRm8RexOne l rex rm s
  | .rcrRm8Cl l rm => Sys2Proof.Machine.execRcrRm8Cl l rm s
  | .rcrRm8RexCl l rex rm => Sys2Proof.Machine.execRcrRm8RexCl l rex rm s
  | .rcrRm8Imm l rm imm => Sys2Proof.Machine.execRcrRm8Imm l rm imm s
  | .rcrRm8RexImm l rex rm imm => Sys2Proof.Machine.execRcrRm8RexImm l rex rm imm s
  | .rcrRm16One l rex rm => Sys2Proof.Machine.execRcrRm16One l rex rm s
  | .rcrRm16Cl l rex rm => Sys2Proof.Machine.execRcrRm16Cl l rex rm s
  | .rcrRm16Imm l rex rm imm => Sys2Proof.Machine.execRcrRm16Imm l rex rm imm s
  | .rcrRm32One l rex rm => Sys2Proof.Machine.execRcrRm32One l rex rm s
  | .rcrRm64One l rex rm => Sys2Proof.Machine.execRcrRm64One l rex rm s
  | .rcrRm32Cl l rex rm => Sys2Proof.Machine.execRcrRm32Cl l rex rm s
  | .rcrRm64Cl l rex rm => Sys2Proof.Machine.execRcrRm64Cl l rex rm s
  | .rcrRm32Imm l rex rm imm => Sys2Proof.Machine.execRcrRm32Imm l rex rm imm s
  | .rcrRm64Imm l rex rm imm => Sys2Proof.Machine.execRcrRm64Imm l rex rm imm s
  | .rolRm8One l rm => Sys2Proof.Machine.execRolRm8One l rm s
  | .rolRm8RexOne l rex rm => Sys2Proof.Machine.execRolRm8RexOne l rex rm s
  | .rolRm8Cl l rm => Sys2Proof.Machine.execRolRm8Cl l rm s
  | .rolRm8RexCl l rex rm => Sys2Proof.Machine.execRolRm8RexCl l rex rm s
  | .rolRm8Imm l rm imm => Sys2Proof.Machine.execRolRm8Imm l rm imm s
  | .rolRm8RexImm l rex rm imm => Sys2Proof.Machine.execRolRm8RexImm l rex rm imm s
  | .rolRm16One l rex rm => Sys2Proof.Machine.execRolRm16One l rex rm s
  | .rolRm16Cl l rex rm => Sys2Proof.Machine.execRolRm16Cl l rex rm s
  | .rolRm16Imm l rex rm imm => Sys2Proof.Machine.execRolRm16Imm l rex rm imm s
  | .rolRm32One l rex rm => Sys2Proof.Machine.execRolRm32One l rex rm s
  | .rolRm64One l rex rm => Sys2Proof.Machine.execRolRm64One l rex rm s
  | .rolRm32Cl l rex rm => Sys2Proof.Machine.execRolRm32Cl l rex rm s
  | .rolRm64Cl l rex rm => Sys2Proof.Machine.execRolRm64Cl l rex rm s
  | .rolRm32Imm l rex rm imm => Sys2Proof.Machine.execRolRm32Imm l rex rm imm s
  | .rolRm64Imm l rex rm imm => Sys2Proof.Machine.execRolRm64Imm l rex rm imm s
  | .rorRm8One l rm => Sys2Proof.Machine.execRorRm8One l rm s
  | .rorRm8RexOne l rex rm => Sys2Proof.Machine.execRorRm8RexOne l rex rm s
  | .rorRm8Cl l rm => Sys2Proof.Machine.execRorRm8Cl l rm s
  | .rorRm8RexCl l rex rm => Sys2Proof.Machine.execRorRm8RexCl l rex rm s
  | .rorRm8Imm l rm imm => Sys2Proof.Machine.execRorRm8Imm l rm imm s
  | .rorRm8RexImm l rex rm imm => Sys2Proof.Machine.execRorRm8RexImm l rex rm imm s
  | .rorRm16One l rex rm => Sys2Proof.Machine.execRorRm16One l rex rm s
  | .rorRm16Cl l rex rm => Sys2Proof.Machine.execRorRm16Cl l rex rm s
  | .rorRm16Imm l rex rm imm => Sys2Proof.Machine.execRorRm16Imm l rex rm imm s
  | .rorRm32One l rex rm => Sys2Proof.Machine.execRorRm32One l rex rm s
  | .rorRm64One l rex rm => Sys2Proof.Machine.execRorRm64One l rex rm s
  | .rorRm32Cl l rex rm => Sys2Proof.Machine.execRorRm32Cl l rex rm s
  | .rorRm64Cl l rex rm => Sys2Proof.Machine.execRorRm64Cl l rex rm s
  | .rorRm32Imm l rex rm imm => Sys2Proof.Machine.execRorRm32Imm l rex rm imm s
  | .rorRm64Imm l rex rm imm => Sys2Proof.Machine.execRorRm64Imm l rex rm imm s

end Sys2Proof.Machine
end

