-- ==== Sys2Proof/Machine/Fetch.lean ====
section
/-! DEFINITION. Fetching an instruction's bytes from the program text (`20_memory.md` R40, R58; `10_state.md` R26, R27;
`70_reset_and_hazards.md` R231, R232), and placing one instruction there. -/

namespace Sys2Proof.Machine

/-- How far `pc` lies behind the first byte of the program text, modulo the width of the program counter. -/
def State.textIndex (s : State) : Nat :=
  (s.pc.toNat + 2 ^ pcBits s.mode - s.params.textStart.toNat % 2 ^ pcBits s.mode) % 2 ^ pcBits s.mode

/-- How many bytes of the program text are left to execute from `pc` on: 0 when `pc` is outside the text, and 0 when as many
bytes as the text has are executed, also where the text fills the code space and `pc` is back at its first byte
(`70_reset_and_hazards.md` R232). DEDUCED, safe (log entry 28). -/
def State.textLeft (s : State) : Nat := s.params.textLen - max s.textIndex s.executed

/-- The program text does not cross the top of the address space: neither its code offsets the width of the program counter
nor its linear addresses theirs (`92_eei_decisions.md` D10, `10_state.md` R27). DEDUCED, safe (log entry 27). -/
def State.textInSpace (s : State) : Bool :=
  decide ((s.textOffset 0).toNat + s.params.textLen ≤ 2 ^ pcBits s.mode) &&
    decide ((s.linear .cs (s.textOffset 0)).toNat + s.params.textLen ≤ 2 ^ linearBits s.mode)

/-- The `n` addresses from `a` on lie in one half of the canonical addresses (`20_memory.md` R49). -/
def canonicalSpan (k : LaBits) (n a : Nat) : Bool :=
  decide (a + n ≤ 2 ^ (laBitsNat k - 1)) || (decide (2 ^ 64 - 2 ^ (laBitsNat k - 1) ≤ a) && decide (a + n ≤ 2 ^ 64))

/-- In `Mode64` neither the code offsets nor the linear addresses of the program text cross the canonical boundary
(`10_state.md` R27, `92_eei_decisions.md` D10). DEDUCED, safe (log entry 17). -/
def State.textCanonical (s : State) : Bool :=
  decide (s.mode ≠ .mode64) ||
    (canonicalSpan s.params.laBits s.params.textLen (s.textOffset 0).toNat &&
      canonicalSpan s.params.laBits s.params.textLen (s.linear .cs (s.textOffset 0)).toNat)

/-- The `n` code bytes from `pc` on, `none` when one of them is not mapped: DESIGN CHOICE, safe (log entry 18). -/
def State.codeBytes (s : State) (n : Nat) : Option (List Byte) :=
  (List.range n).mapM fun i => (s.fetchPhys (s.pcPlus i)).map (Memory.read s.mem)

/-- The bytes the decoder looks at: those of the program text from `pc` on, at most the longest instruction. Which refusal
is named when several apply is open: the end of the run, then the top of the address space, the canonical boundary, bytes that
are not mapped. DESIGN CHOICE, safe (log entry 30). -/
def State.fetchBytes (s : State) : Except Refusal (List Byte) :=
  if s.textLeft = 0 then .error .endOfProgram
  else if s.textInSpace = false then .error .textCrossesTop
  else if s.textCanonical = false then .error .textNotCanonical
  else match s.codeBytes (min s.textLeft maxFetch) with
    | none => .error .textNotFetchable
    | some bs => .ok bs

/-- The instruction at `pc` (`30_encoding.md` R88, R89). A refusal of the fetch is named before one of the decoder: DESIGN
CHOICE, safe (log entry 30). -/
def State.fetch (s : State) : Except Refusal Instr :=
  match s.fetchBytes with
  | .error r => .error r
  | .ok bs =>
    match decode s.mode bs with
    | .error e => .error (.undecodable e)
    | .ok (i, _) => .ok i

/-- Store bytes at the code offsets from `pc + k` on, where they are mapped. -/
def State.storeCode (s : State) : Nat → List Byte → State
  | _, [] => s
  | k, b :: bs =>
    match s.fetchPhys (s.pcPlus k) with
    | none => s.storeCode (k + 1) bs
    | some a => State.storeCode (s.setMem (s.mem.write a b)) (k + 1) bs

/-- Make the `n` bytes from `pc` on the whole program text, none of it executed. -/
def State.setText (s : State) (n : Nat) : State :=
  { s with params := { s.params with textStart := s.pc, textLen := n }, executed := 0 }

/-- How many of these bytes the instruction at their front takes; all of them when they hold none. -/
def instrLength (m : Mode) (bs : List Byte) : Nat :=
  match decode m bs with
  | .ok (_, r) => bs.length - r.length
  | .error _ => bs.length

/-- A program of one instruction, placed at `pc` by the host (`70_reset_and_hazards.md` R231(b), R237; log entry 6). -/
def State.placeInstr (s : State) (bs : List Byte) : State :=
  (s.storeCode 0 bs).setText (instrLength s.mode bs)

end Sys2Proof.Machine
end

