-- ==== Sys2Proof/Machine/Step.lean ====
section
/-! DEFINITION. One step of the machine: fetch, decode, execute (`00_scope.md` R10, R12). -/

namespace Sys2Proof.Machine

/-- One step: the instruction at `pc` is executed; the execution itself moves `pc` (`10_state.md` R27). -/
def step (s : State) : Host.Outcome State Fault Refusal :=
  match s.fetch with
  | .error r => .refused r
  | .ok i => exec i s

/-- The state with one instruction placed where `step` fetches next, its bits numbered as spec/opcode_table.json numbers
them: it stands for the host loading a program of one instruction (log entries 6 and 24). -/
def State.withFetchWord (s : State) (nbits w : Nat) : State := s.placeInstr (tableBytes nbits w)

end Sys2Proof.Machine
end

