-- ==== Sys2Proof/WellFormed.lean ====
section
/-! DEFINITION. Which instructions have an encoding in a given mode, said declaratively from `30_encoding.md` and apart from
the way the decoder computes it. The only thing taken from Decode is `Instr.form`, the row of an instruction. -/

namespace Sys2Proof

/-- R63: no F2H or F3H, no prefix twice, at most one segment override, and in `Mode64` only FS and GS overrides. -/
def legacyOk (m : Mode) (l : List Legacy) : Bool :=
  !l.contains .repne && !l.contains .rep && decide l.Nodup &&
    decide ((l.countP fun p => match p with
      | .seg _ => true
      | _ => false) ≤ 1) &&
    (m != .mode64 ||
      [Seg.cs, Seg.ds, Seg.es, Seg.ss].all fun s => !l.contains (.seg s))

/-- R66: a REX prefix exists only in `Mode64`. -/
def rexModeOk (m : Mode) (f : Form) : Bool := f.rex.isNone || m == .mode64

/-- R65, R70, R87: SIZE = 64 has REX.W = 1; SIZE 16 and 32 have no REX prefix or one with W = 0; SIZE 8 any. -/
def rexSizeOk (f : Form) : Bool :=
  match f.size with
  | .b8 => true
  | .b16 | .b32 => f.rex.all fun r => !r.w
  | .b64 => f.rex.any fun r => r.w

/-- The modes whose default operand size is 32 (R70). -/
def defaultIs32 : Mode → Bool
  | .mode64 | .compat32 | .prot32 => true
  | _ => false

/-- R70: 66H stands exactly where SIZE is not the default of the mode; SIZE 8 and 64 do not look at it. -/
def opSizeOk (m : Mode) (f : Form) : Bool :=
  match f.size with
  | .b8 | .b64 => true
  | .b16 => f.legacy.contains .opSize == defaultIs32 m
  | .b32 => f.legacy.contains .opSize == !defaultIs32 m

/-- R75: the address size is 16: a 67H prefix in a mode whose default is 32, or none where the default is 16. -/
def uses16BitAddress (m : Mode) (l : List Legacy) : Bool :=
  match m with
  | .mode64 => false
  | .compat32 | .prot32 => l.contains .addrSize
  | .compat16 | .prot16 | .real16 | .v86 => !l.contains .addrSize

/-- R76, R79: a memory form belongs to its address size. -/
def addrFormOk (m : Mode) (f : Form) : Bool :=
  match f.rm with
  | .reg _ => true
  | .mem16 _ _ | .mem16Abs _ => uses16BitAddress m f.legacy
  | .mem _ _ | .memSib _ _ _ _ | .memSibDisp _ _ _ | .memDisp32 _ => !uses16BitAddress m f.legacy

/-- R76, R77, R79: the `mod`, `rm`, `base` values that mean another form are excluded. -/
def rmOk : Rm → Bool
  | .mem16 rm .d0 => rm != 6
  | .mem rm d => rm != 4 && (rm != 5 || d != .d0)
  | .memSib _ _ base d => base != 5 || d != .d0
  | _ => true

/-- A decoded form that has an encoding in mode `m`. -/
def Form.wf (m : Mode) (f : Form) : Bool :=
  legacyOk m f.legacy && rexModeOk m f && rexSizeOk f && opSizeOk m f && addrFormOk m f && rmOk f.rm

/-- An instruction that has an encoding in mode `m`. -/
def Instr.wf (m : Mode) (i : Instr) : Bool := i.form.wf m

end Sys2Proof
end

