-- ==== Sys2Proof/Safety.lean ====
section
/-! DEFINITION. The terms claims use: an invariant state, the program text, a run, and what a completed rotate leaves in the
flags and `pc`, said from the flag rules and apart from the way the meanings compute it. -/

namespace Sys2Proof.Machine

/-- The memory has its canonical form and `pc` fits its width (`10_state.md` R26). -/
def State.Inv (s : State) : Prop := s.mem.wf = true ∧ s.pc.toNat < 2 ^ pcBits s.mode

/-- The byte of the program text at index `i`, `none` when it is not mapped (`20_memory.md` R58). -/
def State.textByte (s : State) (i : Nat) : Option Byte :=
  (s.fetchPhys (s.textOffset i)).map (Memory.read s.mem)

/-- `k` steps from `s` complete and lead to `t` (`70_reset_and_hazards.md` R232). -/
def Reaches (k : Nat) (s t : State) : Prop := core.run k s = .next t

/-- No run from `s` ends in a fault. -/
def FaultFree (s : State) : Prop := ∀ k e, core.run k s ≠ .fault e

/-- The masked count as a remainder (`40_rotate_common.md` R102). -/
def countMod (z : OpSize) (count : BitVec 8) : Nat := count.toNat % (if z = .b64 then 64 else 32)

/-- The start of a run: `pc` is at the first byte of the program text and none of it is executed
(`70_reset_and_hazards.md` R231(b), R232). -/
def State.launch (s : State) : Prop := s.pc = s.textOffset 0 ∧ s.executed = 0

/-- What R108, R109 and R27 leave beside the destination after a rotate of `len` bytes with masked count `mc`: `cf` is the
new CF where the rule writes it, `of` the new OF where the rule defines it. The bit an undefined OF takes is the model's
choice (log entry 7), the count of executed bytes is its own field (log entry 28). -/
def afterRotate (s : State) (len mc : Nat) (cf of : Bool) : State :=
  { s with
    cf := if mc = 0 then s.cf else cf
    of := if mc = 0 then s.of else if mc = 1 then of else Config.undefinedBit s.draws
    draws := if mc ≤ 1 then s.draws else s.draws + 1
    pc := BitVec.ofNat 64 ((s.pc.toNat + len) % 2 ^ pcBits s.mode)
    executed := s.executed + len }

/-- The bits of `v` that are 1. -/
def onesCount {n : Nat} (v : BitVec n) : Nat := (List.range n).countP fun k => v.getLsbD k

/-- The parameters are the defaults of `00_scope.md` R5 but for the mode and the program text. -/
def State.defaultParams (s : State) : Prop :=
  s.params = { Params.default with mode := s.mode, textStart := s.params.textStart, textLen := s.params.textLen }

/-- A 64-bit address, given without wrap-around, is canonical: it is below `2^64` and bits 63 down to `LA_BITS-1` are all
equal (`20_memory.md` R49). -/
def canonicalBits (k : LaBits) (a : Nat) : Prop :=
  a < 2 ^ 64 ∧ ∀ i j, laBitsNat k - 1 ≤ i → i < 64 → laBitsNat k - 1 ≤ j → j < 64 → a.testBit i = a.testBit j

/-- Every check of an access passes and the spec admits its bytes as a destination (`20_memory.md` R48 to R52, R54, R58). -/
def State.accessOk (s : State) (x : Access) : Prop :=
  s.segCheck x = none ∧ s.canonCheck x = none ∧ s.alignCheck x = none ∧ s.pageCheck x = none ∧
    s.destRefusal (.mem x) = none

/-- The value of a displacement of 16-bit addressing as an integer (`30_encoding.md` R81). -/
def dispInt16 : Disp16 → Int
  | .d0 => 0
  | .d8 v => v.toInt
  | .d16 v => v.toInt

/-- The value of a displacement of 32- and 64-bit addressing as an integer (`30_encoding.md` R81). -/
def dispInt32 : Disp32 → Int
  | .d0 => 0
  | .d8 v => v.toInt
  | .d32 v => v.toInt

/-- Register 1, whose low byte is CL, is a base or an index of the address: only 32- and 64-bit addressing can name it
(`30_encoding.md` R76, R77, R79). -/
def addressUsesReg1 (f : Form) : Bool :=
  match f.rm with
  | .mem rm _ => regCode f.rexB rm == 1
  | .memSib _ index base _ => regCode f.rexB base == 1 || regCode f.rexX index == 1
  | .memSibDisp _ index _ => regCode f.rexX index == 1
  | .reg _ | .mem16 _ _ | .mem16Abs _ | .memDisp32 _ => false

/-- Two states agree on everything but OF and the counter of undefined bits. -/
def sameButOf (s t : State) : Prop := { s with of := t.of, draws := t.draws } = t

end Sys2Proof.Machine
end

