-- ==== Sys2Proof/Certificates/Slice0/Obligations.lean ====
section
/-! DEFINITION. The statements for the provers. Each docstring names the rules of spec/ a statement formalises. -/

open Sys2Proof Sys2Proof.Machine

/-! ## Encoding and decoding -/

/-- Decoding the bytes of a well-formed instruction, whatever follows them, gives it back (R60 to R88). -/
def Obligations.DecodeEncode : Prop :=
  ∀ (m : Mode) (i : Instr) (rest : List Byte), i.wf m = true → decode m (encode i ++ rest) = .ok (i, rest)

/-- What the decoder accepts is well-formed in the mode, and the bytes it took are exactly that instruction's encoding: no
bit of an accepted byte sequence is ignored or invented (R63 to R66, R89). -/
def Obligations.EncodeDecode : Prop :=
  ∀ (m : Mode) (bs rest : List Byte) (i : Instr),
    decode m bs = .ok (i, rest) → i.wf m = true ∧ encode i ++ rest = bs

/-- The length used to advance `pc` is the number of bytes of the encoding, 2 to 13 for an admitted spelling (R61). The
bound is that of the bytes counted as in log entry 23. -/
def Obligations.InstructionLength : Prop :=
  ∀ (m : Mode) (i : Instr), i.wf m = true →
    (encode i).length = i.form.length ∧ 2 ≤ (encode i).length ∧ (encode i).length ≤ 13

/-- After admitted prefixes and one of the six opcode bytes, a ModRM `reg` field of 4 to 7 is refused as the shift group,
whatever follows (R92). -/
def Obligations.ShiftGroupRefused : Prop :=
  ∀ (m : Mode) (l : List Legacy) (rex : Option Rex) (op modrm : Byte) (rest : List Byte),
    legacyOk m l = true → (rex.isSome = true → m = .mode64) → op.toNat ∈ [0xC0, 0xC1, 0xD0, 0xD1, 0xD2, 0xD3] →
    4 ≤ modrm.toNat / 8 % 8 →
    decode m (l.map legacyByte ++ rexBytes rex ++ op :: modrm :: rest) = .error .shiftGroup

/-- After admitted prefixes, a byte that is no opcode of a rotate is refused; outside `Mode64` the bytes 40H to 4FH are such
bytes, and after a REX prefix so are the prefix bytes (R64, R66, R88 step 3). -/
def Obligations.NotARotateRefused : Prop :=
  ∀ (m : Mode) (l : List Legacy) (rex : Option Rex) (op : Byte) (rest : List Byte),
    legacyOk m l = true → (rex.isSome = true → m = .mode64) → op.toNat ∉ [0xC0, 0xC1, 0xD0, 0xD1, 0xD2, 0xD3] →
    (rex = none → op.toNat ∉ [0x26, 0x2E, 0x36, 0x3E, 0x64, 0x65, 0x66, 0x67, 0xF0, 0xF2, 0xF3] ∧
      (m = .mode64 → op.toNat / 16 ≠ 4)) →
    decode m (l.map legacyByte ++ rexBytes rex ++ op :: rest) = .error .notARotate

/-- A prefix combination that R63 does not admit is refused, whatever follows; F2H and F3H by their own name. Which reason
is named first is the model's choice (log entry 23). -/
def Obligations.PrefixesRefused : Prop :=
  ∀ (m : Mode) (l : List Legacy) (rest : List Byte), legacyOk m l = false →
    (∃ e, decode m (l.map legacyByte ++ rest) = .error e) ∧
      (.rep ∈ l ∨ .repne ∈ l → decode m (l.map legacyByte ++ rest) = .error .repPrefix)

/-- Eight byte sequences written out from the spec's examples decode to the instructions they stand for (R135, R124, R169,
R194, R141, R122, R151, R161). -/
def Obligations.DecodedWords : Prop :=
  decode .mode64 [0x48, 0xC1, 0xD0, 0x3F] = .ok (.rclRm64Imm [] ⟨true, false, false, false⟩ (.reg 0) 0x3F, []) ∧
  decode .mode64 [0x41, 0xD2, 0xD1] = .ok (.rclRm8RexCl [] ⟨false, false, false, true⟩ (.reg 1), []) ∧
  decode .mode64 [0x66, 0xC1, 0xC0, 0x08] = .ok (.rolRm16Imm [.opSize] none (.reg 0) 8, []) ∧
  decode .prot32 [0xC1, 0x0D, 0x00, 0x20, 0x00, 0x00, 0x04] = .ok (.rorRm32Imm [] none (.memDisp32 0x2000) 4, []) ∧
  decode .mode64 [0xD0, 0xDC] = .ok (.rcrRm8One [] (.reg 4), []) ∧
  decode .mode64 [0x40, 0xD0, 0xD6] = .ok (.rclRm8RexOne [] ⟨false, false, false, false⟩ (.reg 6), []) ∧
  decode .mode64 [0x48, 0xD1, 0xDB] = .ok (.rcrRm64One [] ⟨true, false, false, false⟩ (.reg 3), []) ∧
  decode .real16 [0xD0, 0x07] = .ok (.rolRm8One [] (.mem16 7 .d0), [])

/-- Outside `Mode64` a row with a REX prefix or a 64-bit operand is not encodable: no bytes decode to it, and its meaning is
refused by name (R66, R91). The refusal by exec is the model's choice (log entry 19). -/
def Obligations.NotEncodableOutside64 : Prop :=
  ∀ (i : Instr) (s : State), s.mode ≠ .mode64 → (i.form.rex.isSome = true ∨ i.form.size = .b64) →
    exec i s = .refused .notEncodable ∧ ∀ bs rest, decode s.mode bs ≠ .ok (i, rest)

/-! ## The machine -/

/-- Every step keeps the memory's canonical form and a `pc` that fits its width (R26, R27). The canonical form is the
model's own representation of memory (log entry 5). -/
def Obligations.StepKeepsInv : Prop :=
  ∀ s t : State, s.Inv → step s = .next t → t.Inv

/-- The state after reset has the invariant. It rests on the model's reset state (log entries 1 to 6). -/
def Obligations.ResetInv : Prop := State.reset.Inv

/-- No run changes a byte of the program text or a parameter (R58, R235, R237). The extent of the text is the model's data
(log entries 6 and 16). -/
def Obligations.RunKeepsText : Prop :=
  ∀ (k : Nat) (s t : State), Reaches k s t →
    t.params = s.params ∧ ∀ j, j < s.params.textLen → t.textByte j = s.textByte j

/-- OF never reaches anything else: two states that differ in OF and in the undefined bits still to be drawn run alike, and
after any number of steps differ in nothing else (R234). The form of the undefined bits is the model's choice (log entry 7). -/
def Obligations.OfNeverPropagates : Prop :=
  ∀ (k : Nat) (s s' : State), sameButOf s s' →
    (∀ t, Reaches k s t → ∃ t', Reaches k s' t' ∧ sameButOf t t') ∧
      ∀ e, core.run k s = .fault e → core.run k s' = .fault e

/-- When the bytes fetched at `pc` decode to an instruction, the step is exec of it, and nothing is added around exec. -/
def Obligations.StepRunsDecoded : Prop :=
  ∀ (s : State) (bs rest : List Byte) (i : Instr),
    s.fetchBytes = .ok bs → decode s.mode bs = .ok (i, rest) → step s = exec i s

/-- When a well-formed instruction's encoding lies in memory at `pc`, inside the program text, the step is exec of it. The
extent of the text is the model's data (log entry 6); a fetch beyond the CS limit is its choice
(log entry 29). -/
def Obligations.StepRunsEncoded : Prop :=
  ∀ (s : State) (i : Instr), i.wf s.mode = true → s.params.paging = none → s.textInSpace = true →
    s.textCanonical = true → (encode i).length ≤ s.textLeft →
    (∀ k, k < (encode i).length → (encode i)[k]? = some (s.mem.read (s.linear .cs (s.pcPlus k)).toNat)) →
    step s = exec i s

/-- The end of a run (R232), for a text of any length. A run from the first byte of the text keeps `pc` as many bytes behind
that byte as the completed steps have executed, which are never more than the text has, and its next step is refused as the
end of the run exactly when they are all of them; so a text that fills the code space is executed once. In any state a text
shorter than the code space ends where `pc` is the byte after it. The extent of the text and the count of executed bytes are
the model's data (log entries 6 and 28). -/
def Obligations.RunEnds : Prop :=
  (∀ (k : Nat) (s t : State), s.launch → Reaches k s t →
    t.pc = s.textOffset t.executed ∧ t.executed ≤ s.params.textLen ∧
      (step t = .refused .endOfProgram ↔ t.executed = s.params.textLen)) ∧
    ∀ s : State, s.params.textLen < 2 ^ pcBits s.mode →
      s.pc.toNat = (s.params.textStart.toNat + s.params.textLen) % 2 ^ pcBits s.mode →
      step s = .refused .endOfProgram

/-- A text that crosses the top of the address space is refused by every step on it, and in `Mode64` so is one with a byte at
an address that is not canonical; a text that does neither is not (R27 and D10 of `92_eei_decisions.md`). That the code
offsets and the linear addresses are both meant, and which refusal is named first, is the model's choice (log entries 17, 27
and 30). -/
def Obligations.TextPlacementRefused : Prop :=
  ∀ s : State, s.textLeft ≠ 0 →
    let first := (s.textOffset 0).toNat
    let la := (s.linear .cs (s.textOffset 0)).toNat
    let len := s.params.textLen
    let crosses := 2 ^ pcBits s.mode < first + len ∨ 2 ^ (if s.mode = .mode64 then 64 else 32) < la + len
    let stray := s.mode = .mode64 ∧ ∃ k, k < len ∧
      (¬canonicalBits s.params.laBits (first + k) ∨ ¬canonicalBits s.params.laBits (la + k))
    (step s = .refused .textCrossesTop ↔ crosses) ∧ (step s = .refused .textNotCanonical ↔ ¬crosses ∧ stray)

/-- A completed rotate moves `pc` past its own bytes, wrapping at the width of the program counter (R26, R27, R116). -/
def Obligations.PcAdvances : Prop :=
  ∀ (i : Instr) (s t : State), exec i s = .next t →
    t.pc.toNat = (s.pc.toNat + (encode i).length) %
      2 ^ (match s.mode with
        | .mode64 => 64
        | .compat32 | .prot32 => 32
        | .compat16 | .prot16 | .real16 | .v86 => 16)

/-- SF, ZF, AF and PF are unaffected by every form with every count (R110). -/
def Obligations.FlagsUnaffected : Prop :=
  ∀ (i : Instr) (s t : State), exec i s = .next t → t.sf = s.sf ∧ t.zf = s.zf ∧ t.af = s.af ∧ t.pf = s.pf

/-- The six flags at their bits of the flags register, bit 1 reading 1 (R29). The flags register as an image is the model's
choice (log entry 26). -/
def Obligations.FlagsImage : Prop :=
  ∀ s : State, s.flagsImage.getLsbD 0 = s.cf ∧ s.flagsImage.getLsbD 1 = true ∧ s.flagsImage.getLsbD 2 = s.pf ∧
    s.flagsImage.getLsbD 4 = s.af ∧ s.flagsImage.getLsbD 6 = s.zf ∧ s.flagsImage.getLsbD 7 = s.sf ∧
    s.flagsImage.getLsbD 11 = s.of

/-- THE MODEL'S CHOICE (log entries 1 to 6; R34 gives these values for orientation only): the state after reset. -/
def Obligations.ResetValues : Prop :=
  (∀ c, State.reset.reg c = 0) ∧ State.reset.pc = 0xFFF0 ∧ State.reset.flagsImage = 2 ∧ State.reset.mode = .mode64 ∧
    (∀ a, State.reset.mem.read a = 0) ∧ step State.reset = .refused .endOfProgram

/-! ## Register destinations: the result and the completion of all 60 rows -/

/-- All 15 RCL rows with a register destination complete: `CF || DEST` rotated left by the masked count within SIZE+1 bits,
the form derived from the loop (R120, R121 to R135; R106 to R109, R111 for the completion, R27, R33). THE MODEL'S CHOICE
(log entry 7): for masked counts above 1, where OF is undefined, OF is the free bit `Config.undefinedBit` of the counter
`draws`, which goes up by one; the count of executed bytes is the model's own too (log entry 28). -/
def Obligations.RclRegister : Prop :=
  ∀ (i : Instr) (s : State) (r : BitVec 3), i.form.mn = .rcl → i.form.rm = .reg r → i.wf s.mode = true →
    i.form.lock = false →
    let f := i.form
    let c := regCode f.rexB r
    let d := readReg f.size c f.rex.isSome s
    let mc := countMod f.size (countValue f.count s)
    let v := (BitVec.cons s.cf d).rotateLeft mc
    let res := v.setWidth f.size.bits
    exec i s = .next (writeReg f.size c f.rex.isSome res (afterRotate s f.length mc v.msb (xor res.msb v.msb)))

/-- All 15 RCR rows with a register destination complete: `CF || DEST` rotated right by the masked count within SIZE+1 bits,
the form derived from the loop (R140, R141 to R155; R106 to R109, R111 for the completion, R27, R33). THE MODEL'S CHOICE
(log entry 7): for masked counts above 1, where OF is undefined, OF is the free bit `Config.undefinedBit` of the counter
`draws`, which goes up by one; the count of executed bytes is the model's own too (log entry 28). -/
def Obligations.RcrRegister : Prop :=
  ∀ (i : Instr) (s : State) (r : BitVec 3), i.form.mn = .rcr → i.form.rm = .reg r → i.wf s.mode = true →
    i.form.lock = false →
    let f := i.form
    let c := regCode f.rexB r
    let d := readReg f.size c f.rex.isSome s
    let mc := countMod f.size (countValue f.count s)
    let v := (BitVec.cons s.cf d).rotateRight mc
    let res := v.setWidth f.size.bits
    exec i s =
      .next (writeReg f.size c f.rex.isSome res
        (afterRotate s f.length mc v.msb (xor res.msb (res.getLsbD (f.size.bits - 2)))))

/-- All 15 ROL rows with a register destination complete: DEST rotated left by the masked count, the form derived from the
loop (R160, R161 to R175; R106 to R109, R111 for the completion, R27, R33). THE MODEL'S CHOICE
(log entry 7): for masked counts above 1, where OF is undefined, OF is the free bit `Config.undefinedBit` of the counter
`draws`, which goes up by one; the count of executed bytes is the model's own too (log entry 28). -/
def Obligations.RolRegister : Prop :=
  ∀ (i : Instr) (s : State) (r : BitVec 3), i.form.mn = .rol → i.form.rm = .reg r → i.wf s.mode = true →
    i.form.lock = false →
    let f := i.form
    let c := regCode f.rexB r
    let d := readReg f.size c f.rex.isSome s
    let mc := countMod f.size (countValue f.count s)
    let res := d.rotateLeft mc
    exec i s =
      .next (writeReg f.size c f.rex.isSome res
        (afterRotate s f.length mc (res.getLsbD 0) (xor res.msb (res.getLsbD 0))))

/-- All 15 ROR rows with a register destination complete: DEST rotated right by the masked count, the form derived from the
loop (R180, R181 to R195; R106 to R109, R111 for the completion, R27, R33). THE MODEL'S CHOICE
(log entry 7): for masked counts above 1, where OF is undefined, OF is the free bit `Config.undefinedBit` of the counter
`draws`, which goes up by one; the count of executed bytes is the model's own too (log entry 28). -/
def Obligations.RorRegister : Prop :=
  ∀ (i : Instr) (s : State) (r : BitVec 3), i.form.mn = .ror → i.form.rm = .reg r → i.wf s.mode = true →
    i.form.lock = false →
    let f := i.form
    let c := regCode f.rexB r
    let d := readReg f.size c f.rex.isSome s
    let mc := countMod f.size (countValue f.count s)
    let res := d.rotateRight mc
    exec i s =
      .next (writeReg f.size c f.rex.isSome res
        (afterRotate s f.length mc res.msb (xor res.msb (res.getLsbD (f.size.bits - 2)))))

/-! ## Memory destinations -/

/-- All 15 RCL rows with a memory destination whose checks pass complete (R117, R120, R105 to R109, R111). THE MODEL'S CHOICE
(log entry 7): for masked counts above 1, where OF is undefined, OF is the free bit `Config.undefinedBit` of the counter
`draws`, which goes up by one; the count of executed bytes is the model's own too (log entry 28). -/
def Obligations.RclMemory : Prop :=
  ∀ (i : Instr) (s : State) (x : Access), i.form.mn = .rcl → destOf i.form s = .mem x → i.wf s.mode = true →
    i.form.lock = false → s.accessOk x →
    let f := i.form
    let d := BitVec.ofNat f.size.bits (s.mem.readList (s.accessPhys x))
    let mc := countMod f.size (countValue f.count s)
    let v := (BitVec.cons s.cf d).rotateLeft mc
    let res := v.setWidth f.size.bits
    exec i s =
      .next ((afterRotate s f.length mc v.msb (xor res.msb v.msb)).setMem (s.mem.writeList (s.accessPhys x) res.toNat))

/-- All 15 RCR rows with a memory destination whose checks pass complete (R117, R140, R105 to R109, R111). THE MODEL'S CHOICE
(log entry 7): for masked counts above 1, where OF is undefined, OF is the free bit `Config.undefinedBit` of the counter
`draws`, which goes up by one; the count of executed bytes is the model's own too (log entry 28). -/
def Obligations.RcrMemory : Prop :=
  ∀ (i : Instr) (s : State) (x : Access), i.form.mn = .rcr → destOf i.form s = .mem x → i.wf s.mode = true →
    i.form.lock = false → s.accessOk x →
    let f := i.form
    let d := BitVec.ofNat f.size.bits (s.mem.readList (s.accessPhys x))
    let mc := countMod f.size (countValue f.count s)
    let v := (BitVec.cons s.cf d).rotateRight mc
    let res := v.setWidth f.size.bits
    exec i s =
      .next ((afterRotate s f.length mc v.msb (xor res.msb (res.getLsbD (f.size.bits - 2)))).setMem
        (s.mem.writeList (s.accessPhys x) res.toNat))

/-- All 15 ROL rows with a memory destination whose checks pass complete (R117, R160, R105 to R109, R111). THE MODEL'S CHOICE
(log entry 7): for masked counts above 1, where OF is undefined, OF is the free bit `Config.undefinedBit` of the counter
`draws`, which goes up by one; the count of executed bytes is the model's own too (log entry 28). -/
def Obligations.RolMemory : Prop :=
  ∀ (i : Instr) (s : State) (x : Access), i.form.mn = .rol → destOf i.form s = .mem x → i.wf s.mode = true →
    i.form.lock = false → s.accessOk x →
    let f := i.form
    let d := BitVec.ofNat f.size.bits (s.mem.readList (s.accessPhys x))
    let mc := countMod f.size (countValue f.count s)
    let res := d.rotateLeft mc
    exec i s =
      .next ((afterRotate s f.length mc (res.getLsbD 0) (xor res.msb (res.getLsbD 0))).setMem
        (s.mem.writeList (s.accessPhys x) res.toNat))

/-- All 15 ROR rows with a memory destination whose checks pass complete (R117, R180, R105 to R109, R111). THE MODEL'S CHOICE
(log entry 7): for masked counts above 1, where OF is undefined, OF is the free bit `Config.undefinedBit` of the counter
`draws`, which goes up by one; the count of executed bytes is the model's own too (log entry 28). -/
def Obligations.RorMemory : Prop :=
  ∀ (i : Instr) (s : State) (x : Access), i.form.mn = .ror → destOf i.form s = .mem x → i.wf s.mode = true →
    i.form.lock = false → s.accessOk x →
    let f := i.form
    let d := BitVec.ofNat f.size.bits (s.mem.readList (s.accessPhys x))
    let mc := countMod f.size (countValue f.count s)
    let res := d.rotateRight mc
    exec i s =
      .next ((afterRotate s f.length mc res.msb (xor res.msb (res.getLsbD (f.size.bits - 2)))).setMem
        (s.mem.writeList (s.accessPhys x) res.toNat))

/-- In `Mode64` under the default parameters every row with a memory destination in the lower canonical half, apart from the
program text, completes, and the bytes from the effective address on hold the result, lowest byte first; every other byte
and every register is as before (R42 to R45, R55). A byte is addressed as in log entry 13. -/
def Obligations.FlatMemory : Prop :=
  ∀ (i : Instr) (s : State), s.Inv → s.defaultParams → s.mode = .mode64 → i.wf .mode64 = true → i.form.lock = false →
    (∀ r, i.form.rm ≠ .reg r) →
    let f := i.form
    let ea := (effectiveAddress f s).toNat
    let n := f.size.bytes
    ea + n ≤ 2 ^ 47 → s.params.textStart.toNat + s.params.textLen ≤ 2 ^ 64 →
    (ea + n ≤ s.params.textStart.toNat ∨ s.params.textStart.toNat + s.params.textLen ≤ ea) →
    let d := BitVec.ofNat f.size.bits (s.mem.readList (List.range' ea n))
    let res := (rotate f.mn f.size d s.cf (countValue f.count s)).result
    ∃ t, exec i s = .next t ∧ t.regs = s.regs ∧
      (∀ k, k < n → (t.mem.read (ea + k)).toNat = res.toNat / 256 ^ k % 256) ∧
      ∀ a, a < ea ∨ ea + n ≤ a → t.mem.read a = s.mem.read a

/-! ## Frames -/

/-- A row with a register destination changes no other register, no bit of the destination's register outside the view but
for the upper half that a 32-bit write in `Mode64` clears, no byte of memory, no parameter and not SF, ZF, AF, PF (R33). -/
def Obligations.RegisterFrame : Prop :=
  ∀ (i : Instr) (s t : State) (r : BitVec 3), i.form.rm = .reg r → exec i s = .next t →
    let f := i.form
    let high := f.size = .b8 ∧ f.rex = none ∧ 4 ≤ r.toNat
    ∀ (c : BitVec 4) (lo : Nat), (high → c.toNat = r.toNat - 4 ∧ lo = 8) → (¬high → c = regCode f.rexB r ∧ lo = 0) →
      (∀ k, k ≠ c → t.reg k = s.reg k) ∧
      (∀ j, j < lo ∨ lo + f.size.bits ≤ j →
        (t.reg c).getLsbD j = if f.size = .b32 ∧ s.mode = .mode64 then false else (s.reg c).getLsbD j) ∧
      t.mem = s.mem ∧ t.params = s.params ∧ t.sf = s.sf ∧ t.zf = s.zf ∧ t.af = s.af ∧ t.pf = s.pf

/-- A row with a memory destination changes no register, no parameter, not SF, ZF, AF, PF, and no byte of memory outside the
SIZE/8 bytes of its destination (R33, R43). -/
def Obligations.MemoryFrame : Prop :=
  ∀ (i : Instr) (s t : State) (x : Access), destOf i.form s = .mem x → exec i s = .next t →
    t.regs = s.regs ∧ (∀ a, a ∉ s.accessPhys x → t.mem.read a = s.mem.read a) ∧
      (s.accessPhys x).length = i.form.size.bytes ∧
      t.params = s.params ∧ t.sf = s.sf ∧ t.zf = s.zf ∧ t.af = s.af ∧ t.pf = s.pf

/-! ## Laws of the four functions -/

/-- `ROR(ROL(v, n), n) = v` (R114 (c), first half). -/
def Obligations.RorAfterRol : Prop :=
  ∀ (z : OpSize) (d : BitVec z.bits) (b c : Bool) (n : BitVec 8), (ror z (rol z d b n).result c n).result = d

/-- RCR after RCL with the same COUNT restores DEST and CF (R114 (c), second half). -/
def Obligations.RcrAfterRcl : Prop :=
  ∀ (z : OpSize) (d : BitVec z.bits) (c : Bool) (n : BitVec 8),
    let p := rcl z d c n
    let q := rcr z p.result (p.cfNew.getD c) n
    q.result = d ∧ q.cfNew.getD (p.cfNew.getD c) = c

/-- `ROL(v, n) = ROR(v, (SIZE - n mod SIZE) mod SIZE)` (R114 (d)). -/
def Obligations.RolIsRor : Prop :=
  ∀ (z : OpSize) (d : BitVec z.bits) (b c : Bool) (n : BitVec 8),
    (rol z d b n).result = (ror z d c (BitVec.ofNat 8 ((z.bits - n.toNat % z.bits) % z.bits))).result

/-- ROL and ROR keep the number of 1 bits of DEST; RCL and RCR keep that of `CF || DEST` (R114 (a), (b)). -/
def Obligations.OnesPreserved : Prop :=
  ∀ (z : OpSize) (d : BitVec z.bits) (c : Bool) (n : BitVec 8),
    onesCount (rol z d c n).result = onesCount d ∧ onesCount (ror z d c n).result = onesCount d ∧
      onesCount (rcl z d c n).result + ((rcl z d c n).cfNew.getD c).toNat = onesCount d + c.toNat ∧
      onesCount (rcr z d c n).result + ((rcr z d c n).cfNew.getD c).toNat = onesCount d + c.toNat

/-- The counts that perform no rotation step and what they do to CF and OF (R113, R108, R109). -/
def Obligations.FullTurns : Prop :=
  ∀ (z : OpSize) (d : BitVec z.bits) (c : Bool) (n : BitVec 8),
    let mc := countMod z n
    let fullCarry := (z = .b8 ∧ mc ∈ [9, 18, 27]) ∨ (z = .b16 ∧ mc = 17)
    let fullPlain := (z = .b8 ∧ mc ∈ [8, 16, 24]) ∨ (z = .b16 ∧ mc = 16)
    (mc = 0 → ∀ mn, rotate mn z d c n = ⟨d, none, .unchanged⟩) ∧
      (fullCarry → rcl z d c n = ⟨d, some c, .undefined⟩ ∧ rcr z d c n = ⟨d, some c, .undefined⟩) ∧
      (fullPlain → rol z d c n = ⟨d, some (d.getLsbD 0), .undefined⟩ ∧ ror z d c n = ⟨d, some d.msb, .undefined⟩)

/-- A 32-bit register destination in `Mode64` with masked count 0 is rewritten with its own value, so bits 63:32 become 0,
no flag changes and `pc` advances (R22, R107, R108, R109). It rests on the decision of R107 (log entry 22); the count of
executed bytes is the model's own (log entry 28). -/
def Obligations.ZeroCountClearsUpperHalf : Prop :=
  ∀ (i : Instr) (s : State) (r : BitVec 3), i.form.rm = .reg r → i.form.size = .b32 → s.mode = .mode64 →
    i.wf .mode64 = true → i.form.lock = false → (countValue i.form.count s).toNat % 32 = 0 →
    let c := regCode i.form.rexB r
    exec i s = .next ((s.setReg c (((s.reg c).extractLsb' 0 32).setWidth 64)).advance i.form.length)

/-- `ROR RCX, CL`: the count is the old CL and the whole of RCX is rotated by it (R112). -/
def Obligations.AliasedCount : Prop :=
  ∀ (l : List Legacy) (rex : Rex) (s : State), s.mode = .mode64 → (Instr.rorRm64Cl l rex (.reg 1)).wf .mode64 = true →
    Legacy.lock ∉ l → rex.b = false →
    ∃ t, exec (.rorRm64Cl l rex (.reg 1)) s = .next t ∧
      t.reg 1 = (s.reg 1).rotateRight ((s.reg 1).toNat % 256 % 64) ∧ ∀ c, c ≠ 1 → t.reg c = s.reg c

/-! ## Register views -/

/-- The 32-bit view (R22). -/
def Obligations.View32 : Prop :=
  ∀ (s : State) (c : BitVec 4) (rex : Bool) (v : BitVec 32),
    readReg .b32 c rex s = (s.reg c).extractLsb' 0 32 ∧
      (s.mode = .mode64 → ∀ k, (writeReg .b32 c rex v s).reg k = if k = c then v.setWidth 64 else s.reg k) ∧
      (s.mode ≠ .mode64 → ∀ k j, j < 64 → ((writeReg .b32 c rex v s).reg k).getLsbD j =
        if k = c ∧ j < 32 then v.getLsbD j else (s.reg k).getLsbD j)

/-- The 64-bit and the 16-bit view (R21, R23). -/
def Obligations.View64And16 : Prop :=
  ∀ (s : State) (c : BitVec 4) (rex : Bool),
    readReg .b64 c rex s = s.reg c ∧ readReg .b16 c rex s = (s.reg c).extractLsb' 0 16 ∧
      (∀ (v : BitVec 64) (k), (writeReg .b64 c rex v s).reg k = if k = c then v else s.reg k) ∧
      ∀ (v : BitVec 16) (k j), j < 64 → ((writeReg .b16 c rex v s).reg k).getLsbD j =
        if k = c ∧ j < 16 then v.getLsbD j else (s.reg k).getLsbD j

/-- The 8-bit view: without a REX prefix the codes 4 to 7 are bits 15:8 of registers 0 to 3, every other code is the low
byte of its register; a write replaces exactly those 8 bits (R24). -/
def Obligations.View8 : Prop :=
  ∀ (s : State) (c g : BitVec 4) (rex : Bool) (lo : Nat),
    (rex = false ∧ 4 ≤ c.toNat ∧ c.toNat < 8 → g.toNat = c.toNat - 4 ∧ lo = 8) →
    (rex = true ∨ c.toNat < 4 ∨ 8 ≤ c.toNat → g = c ∧ lo = 0) →
    readReg .b8 c rex s = (s.reg g).extractLsb' lo 8 ∧
      ∀ (v : BitVec 8) (k j), j < 64 → ((writeReg .b8 c rex v s).reg k).getLsbD j =
        if k = g ∧ lo ≤ j ∧ j < lo + 8 then v.getLsbD (j - lo) else (s.reg k).getLsbD j

/-! ## Memory and addresses -/

/-- Little-endian storage: byte `k` of a stored value is its bits `8k+7:8k`, and the value reads back (R42). -/
def Obligations.LittleEndian : Prop :=
  ∀ (m : Memory) (a n v k : Nat), m.wf = true → v < 256 ^ n → k < n →
    ((m.writeList (List.range' a n) v).read (a + k)).toNat = v / 256 ^ k % 256 ∧
      (m.writeList (List.range' a n) v).readList (List.range' a n) = v

/-- The linear address: segment base plus effective address, modulo `2^64` in `Mode64` and `2^32` elsewhere; the default base
is 0 (R47). -/
def Obligations.LinearAddress : Prop :=
  (∀ (s : State) (g : Seg) (ea : Word64),
    (s.linear g ea).toNat = ((s.seg g).base.toNat + ea.toNat) % 2 ^ (if s.mode = .mode64 then 64 else 32)) ∧
    ∀ g, (State.seg { State.reset with params := Params.default } g).base = 0

/-- The segment of every memory form (R80): an override replaces every default; without one a base register with code 4 or
5 is addressed through SS, a base reached with REX.B is not, a SIB byte without a base, a displacement alone and an address
relative to `pc` go through DS, and 16-bit addressing goes through SS exactly with BP (R79). -/
def Obligations.SegmentChoice : Prop :=
  ∀ (f : Form),
    (∀ g, f.legacy.filter isSegPrefix = [.seg g] → segmentOf f = g) ∧
    (f.legacy.filter isSegPrefix = [] →
      (∀ rm d, f.rm = .mem rm d → segmentOf f = if f.rexB = false ∧ (rm = 4 ∨ rm = 5) then .ss else .ds) ∧
      (∀ sc x b d, f.rm = .memSib sc x b d → segmentOf f = if f.rexB = false ∧ (b = 4 ∨ b = 5) then .ss else .ds) ∧
      (∀ sc x v, f.rm = .memSibDisp sc x v → segmentOf f = .ds) ∧
      (∀ v, f.rm = .memDisp32 v → segmentOf f = .ds) ∧
      (∀ rm d, f.rm = .mem16 rm d → segmentOf f = if rm.toNat ∈ [2, 3, 6] then .ss else .ds) ∧
      ∀ v, f.rm = .mem16Abs v → segmentOf f = .ds)

/-- Effective addresses of 16-bit addressing and their default segments (R79). -/
def Obligations.Ea16 : Prop :=
  ∀ (f : Form) (s : State),
    (∀ rm d, f.rm = .mem16 rm d →
      ((effectiveAddress f s).toNat : Int) =
        ((match rm.toNat with
          | 0 => (s.reg 3).toNat % 2 ^ 16 + (s.reg 6).toNat % 2 ^ 16
          | 1 => (s.reg 3).toNat % 2 ^ 16 + (s.reg 7).toNat % 2 ^ 16
          | 2 => (s.reg 5).toNat % 2 ^ 16 + (s.reg 6).toNat % 2 ^ 16
          | 3 => (s.reg 5).toNat % 2 ^ 16 + (s.reg 7).toNat % 2 ^ 16
          | 4 => (s.reg 6).toNat % 2 ^ 16
          | 5 => (s.reg 7).toNat % 2 ^ 16
          | 6 => (s.reg 5).toNat % 2 ^ 16
          | _ => (s.reg 3).toNat % 2 ^ 16 : Nat) + dispInt16 d) % 2 ^ 16 ∧
      defaultSegment f = if rm.toNat ∈ [2, 3, 6] then .ss else .ds) ∧
    ∀ v, f.rm = .mem16Abs v → (effectiveAddress f s).toNat = v.toNat ∧ defaultSegment f = .ds

/-- Effective addresses of 32- and 64-bit addressing without a SIB byte: base plus displacement, and disp32 alone, which is
relative to the next instruction in `Mode64` and absolute elsewhere (R76, R78). -/
def Obligations.EaModRm : Prop :=
  ∀ (f : Form) (s : State), addressSize s.mode f.legacy ≠ .a16 →
    let a := if addressSize s.mode f.legacy = .a64 then 64 else 32
    (∀ rm d, f.rm = .mem rm d →
      ((effectiveAddress f s).toNat : Int) = ((s.reg (regCode f.rexB rm)).toNat + dispInt32 d) % 2 ^ a) ∧
    (∀ v, f.rm = .memDisp32 v → s.mode = .mode64 →
      ((effectiveAddress f s).toNat : Int) = (s.pc.toNat + f.length + v.toInt) % 2 ^ a) ∧
    (∀ v, f.rm = .memDisp32 v → s.mode ≠ .mode64 → (effectiveAddress f s).toNat = v.toNat)

/-- Effective addresses with a SIB byte: base, scaled index (none for index code 4) and displacement, and the base register
that R80 looks at (R77). -/
def Obligations.EaSib : Prop :=
  ∀ (f : Form) (s : State), addressSize s.mode f.legacy ≠ .a16 →
    let a := if addressSize s.mode f.legacy = .a64 then 64 else 32
    let index (x : BitVec 3) (sc : BitVec 2) : Nat :=
      if f.rexX = false ∧ x = 4 then 0 else (s.reg (regCode f.rexX x)).toNat * 2 ^ sc.toNat
    (∀ sc x b d, f.rm = .memSib sc x b d →
      ((effectiveAddress f s).toNat : Int) =
        ((s.reg (regCode f.rexB b)).toNat + index x sc + dispInt32 d) % 2 ^ a ∧
      defaultSegment f = if f.rexB = false ∧ (b = 4 ∨ b = 5) then .ss else .ds) ∧
    ∀ sc x v, f.rm = .memSibDisp sc x v →
      ((effectiveAddress f s).toNat : Int) = (v.toInt + index x sc) % 2 ^ a ∧ defaultSegment f = .ds

/-! ## Exceptions and refusals -/

/-- A LOCK prefix: `#UD` in every mode, for a register destination under any `FaultOrder` and for a memory destination under
the default one; under any order the instruction faults (R90, R206, R211). How FaultOrder is completed is the model's choice
(log entry 12). -/
def Obligations.LockFaults : Prop :=
  ∀ (i : Instr) (s : State), i.wf s.mode = true → i.form.lock = true →
    (∃ e, exec i s = .fault e) ∧
      ((∃ r, i.form.rm = .reg r) ∨ s.params.faultOrder = FaultClass.defaultOrder → exec i s = .fault .ud)

/-- `#AC(0)`: raised, when no earlier condition applies, under the conditions of R208, and only under them. -/
def Obligations.AlignmentFault : Prop :=
  ∀ (i : Instr) (s : State) (x : Access), i.wf s.mode = true → i.form.lock = false → destOf i.form s = .mem x →
    let cond := i.form.size.bytes ∈ [2, 4, 8] ∧ ¬i.form.size.bytes ∣ (s.linear x.seg x.ea).toNat ∧
      s.params.alignCheckEnabled = true ∧ s.mode ≠ .real16 ∧ (s.params.cpl = 3 ∨ s.mode = .v86)
    (cond → s.params.faultOrder = FaultClass.defaultOrder → s.segCheck x = none → s.canonCheck x = none →
      exec i s = .fault (.ac 0)) ∧
      ∀ code, exec i s = .fault (.ac code) → code = 0 ∧ cond

/-- The canonical check: in `Mode64` a memory destination with a byte that is not canonical raises `#SS(0)` through SS and
`#GP(0)` through any other segment (R49). -/
def Obligations.CanonicalFault : Prop :=
  ∀ (i : Instr) (s : State) (x : Access), s.mode = .mode64 → i.wf .mode64 = true → i.form.lock = false →
    s.params.faultOrder = FaultClass.defaultOrder → destOf i.form s = .mem x → (s.seg x.seg).writable = true →
    ((∃ k, k < i.form.size.bytes ∧ ¬canonicalBits s.params.laBits ((s.linear x.seg x.ea).toNat + k)) →
      exec i s = .fault (if x.seg = .ss then .ss (some 0) else .gp (some 0))) ∧
    ((∀ k, k < i.form.size.bytes → canonicalBits s.params.laBits ((s.linear x.seg x.ea).toNat + k)) →
      s.canonCheck x = none)

/-- `#PF(fault-code)` at the first byte that `Translate` refuses, when no earlier condition applies (R209, R213). The code of
a user-mode write is 7 when the page is present, that is when the byte can be read, and 6 when it is not (R50); elsewhere it
is the parameter PFCode. That CPL 3 is user mode and what PFCode depends on are the model's choice (log entry 8), the address
of each byte is log entry 13. -/
def Obligations.PageFault : Prop :=
  ∀ (i : Instr) (s : State) (x : Access) (k : Nat), i.wf s.mode = true → i.form.lock = false →
    s.params.faultOrder = FaultClass.defaultOrder → destOf i.form s = .mem x →
    s.segCheck x = none → s.canonCheck x = none → s.alignCheck x = none → k < i.form.size.bytes →
    (∀ j, j < k → (s.translate (s.byteAddr (s.linear x.seg x.ea) j) true).isSome = true) →
    s.translate (s.byteAddr (s.linear x.seg x.ea) k) true = none →
    let la := s.byteAddr (s.linear x.seg x.ea) k
    let present := (s.translate la false).isSome
    exec i s = .fault (.pf
      (if s.params.cpl = 3 ∨ s.mode = .v86 then (if present then 7 else 6)
        else Config.pfCode la i.form.size.bytes s.params.cpl present) la)

/-- The segment conditions: not writable; beyond the limit outside `Mode64`, `#SS` through SS and `#GP` through the others,
without an error code in real-address mode; a NULL selector in protected and compatibility mode (R201 to R205, R207, R210).
The form of SegCheck and the order of its conditions, also before the canonical check, are the model's choice (log entry
10). -/
def Obligations.SegmentFaults : Prop :=
  ∀ (i : Instr) (s : State) (x : Access), i.wf s.mode = true → i.form.lock = false →
    s.params.faultOrder = FaultClass.defaultOrder → destOf i.form s = .mem x →
    let p := s.seg x.seg
    let prot := s.mode ∈ [Mode.prot32, .prot16, .compat32, .compat16]
    let beyond := ∃ lim k, p.limit = some lim ∧ k < i.form.size.bytes ∧ lim < x.ea.toNat + k
    let code : Option (BitVec 32) := if s.mode = .real16 then none else some 0
    (p.writable = false → prot ∨ s.mode = .mode64 → exec i s = .fault (.gp (some 0))) ∧
      ((p.writable = true ∨ ¬prot) → s.mode ≠ .mode64 → beyond →
        exec i s = .fault (if x.seg = .ss then .ss code else .gp code)) ∧
      (prot → p.writable = true → ¬beyond → p.null = true → x.seg ∈ [Seg.ds, .es, .fs, .gs] →
        exec i s = .fault (.gp (some 0)))

/-- Which exception an instruction can raise and under which condition only; a register destination without LOCK raises none
(R206 to R210, R212). The form of the parameters is the model's choice (log entries 8, 9, 10 and 13). -/
def Obligations.FaultCauses : Prop :=
  ∀ (i : Instr) (s : State) (e : Fault), exec i s = .fault e →
    i.form.lock = true ∧ e = .ud ∨
      ∃ x, destOf i.form s = .mem x ∧
        let beyond := ∃ lim k, (s.seg x.seg).limit = some lim ∧ k < i.form.size.bytes ∧ lim < x.ea.toNat + k
        let stray := ∃ k, k < i.form.size.bytes ∧ ¬canonicalBits s.params.laBits ((s.linear x.seg x.ea).toNat + k)
        let prot := s.mode ∈ [Mode.prot32, .prot16, .compat32, .compat16]
        let reach := (s.mode ≠ .mode64 ∧ beyond) ∨ (s.mode = .mode64 ∧ stray)
        match e with
        | .ud => False
        | .ss code => x.seg = .ss ∧ reach ∧ code = if s.mode = .real16 then none else some 0
        | .gp code =>
          (code = if s.mode = .real16 then none else some 0) ∧
            (((prot ∨ s.mode = .mode64) ∧ (s.seg x.seg).writable = false) ∨ (x.seg ≠ .ss ∧ reach) ∨
              (prot ∧ x.seg ∈ [Seg.ds, .es, .fs, .gs] ∧ (s.seg x.seg).null = true))
        | .pf code la =>
          s.mode ≠ .real16 ∧ s.translate la true = none ∧
            (s.params.cpl = 3 ∨ s.mode = .v86 → code = if (s.translate la false).isSome then 7 else 6) ∧
            ∃ k, k < i.form.size.bytes ∧ la = s.byteAddr (s.linear x.seg x.ea) k
        | .ac code =>
          code = 0 ∧ s.mode ≠ .real16 ∧ s.params.alignCheckEnabled = true ∧ (s.params.cpl = 3 ∨ s.mode = .v86) ∧
            ¬i.form.size.bytes ∣ (s.linear x.seg x.ea).toNat

/-- Under the default parameters an instruction without LOCK faults only in `Mode64` and only for an address that is not
canonical (R5, R48 to R50, R208, R209). The defaults are those of R5, as plain data (log entries 9 and 10). -/
def Obligations.DefaultsNeverFault : Prop :=
  ∀ (i : Instr) (s : State) (e : Fault), s.defaultParams → i.form.lock = false → exec i s = .fault e →
    s.mode = .mode64 ∧ ∃ x k, destOf i.form s = .mem x ∧ k < i.form.size.bytes ∧
      ¬canonicalBits .la48 ((effectiveAddress i.form s).toNat + k)

/-- The count and CF play no part in any exception (R115, R212): a row that raises one raises the same with any CF, with
any other count form of the same length, so with any immediate count, and, where register 1 is not in its address, with any
value of register 1, so with any CL. -/
def Obligations.CountNoFault : Prop :=
  ∀ (i : Instr) (s : State) (e : Fault), exec i s = .fault e →
    (∀ b, exec i (s.setCf b) = .fault e) ∧
      (∀ (j : Instr) (c : Count), j.form = { i.form with count := c } → j.form.length = i.form.length →
        exec j s = .fault e) ∧
      (addressUsesReg1 i.form = false → ∀ v, exec i (s.setReg 1 v) = .fault e)

/-- A memory destination that raises no exception and touches device memory is refused, and so is one that touches the
program text (R54, R58). That exceptions come before the refusals, and device memory before the program text, is the model's
choice (log entries 15 and 16). -/
def Obligations.DestinationRefused : Prop :=
  ∀ (i : Instr) (s : State) (x : Access), i.wf s.mode = true → i.form.lock = false → destOf i.form s = .mem x →
    s.segCheck x = none → s.canonCheck x = none → s.alignCheck x = none → s.pageCheck x = none →
    ((∃ a ∈ s.accessPhys x, s.inDevice a = true) → exec i s = .refused .deviceMemory) ∧
      ((∀ a ∈ s.accessPhys x, s.inDevice a = false) →
        (∃ a ∈ s.accessPhys x, ∃ j, j < s.params.textLen ∧ s.fetchPhys (s.textOffset j) = some a) →
        exec i s = .refused .textOverlap)
end

