-- ==== Sys2Proof/Laws/Access.lean ====
section
/-! SUPPORT. What each check of an access can answer, said once; the fault an instruction reports. -/

namespace Sys2Proof.Machine

/-! ## The bytes of an access -/

@[simp] theorem State.accessBytes_length (s : State) (x : Access) : (s.accessBytes x).length = x.n := by
  simp [State.accessBytes]

@[simp] theorem State.accessPhys_length (s : State) (x : Access) : (s.accessPhys x).length = x.n := by
  simp [State.accessPhys]

theorem State.mem_accessBytes (s : State) (x : Access) (la : Word64) :
    la ∈ s.accessBytes x ↔ ∃ k, k < x.n ∧ la = s.byteAddr (s.accessLinear x) k := by
  simp only [State.accessBytes, List.mem_map, List.mem_range]
  exact ⟨fun ⟨k, hk, e⟩ => ⟨k, hk, e.symm⟩, fun ⟨k, hk, e⟩ => ⟨k, hk, e.symm⟩⟩

theorem beyondLimit_iff (p : SegParams) (x : Access) :
    beyondLimit p x = true ↔ ∃ lim k, p.limit = some lim ∧ k < x.n ∧ lim < x.ea.toNat + k := by
  unfold beyondLimit
  cases p.limit with
  | none => simp
  | some l => simp [List.any_eq_true]

/-! ## The checks -/

/-- What `segCheck` can answer. -/
theorem State.segCheck_some (s : State) (x : Access) (e : Fault) (h : s.segCheck x = some e) :
    ((isProtected s.mode = true ∨ s.mode = .mode64) ∧ (s.seg x.seg).writable = false ∧ e = .gp (some 0)) ∨
      (s.mode ≠ .mode64 ∧ beyondLimit (s.seg x.seg) x = true ∧ e = segmentFault x.seg (segmentCode s.mode)) ∨
      (isProtected s.mode = true ∧ nullFaults x.seg = true ∧ (s.seg x.seg).null = true ∧ e = .gp (some 0)) := by
  simp only [State.segCheck] at h
  split at h
  · rename_i h1
    simp only [Bool.and_eq_true, Bool.or_eq_true, decide_eq_true_eq, Bool.not_eq_true'] at h1
    exact .inl ⟨h1.1, h1.2, (Option.some.inj h).symm⟩
  · split at h
    · rename_i h2
      exact .inr (.inl ⟨h2.1, h2.2, (Option.some.inj h).symm⟩)
    · split at h
      · rename_i h3
        simp only [Bool.and_eq_true] at h3
        exact .inr (.inr ⟨h3.1.1, h3.1.2, h3.2, (Option.some.inj h).symm⟩)
      · exact absurd h (by simp)

/-- What `canonCheck` can answer. -/
theorem State.canonCheck_some (s : State) (x : Access) (e : Fault) (h : s.canonCheck x = some e) :
    s.mode = .mode64 ∧ (∃ k, k < x.n ∧ isCanonical s.params.laBits ((s.accessLinear x).toNat + k) = false) ∧
      e = segmentFault x.seg (some 0) := by
  unfold State.canonCheck at h
  split at h
  · rename_i h1
    refine ⟨h1.1, ?_, (Option.some.inj h).symm⟩
    have h2 := h1.2
    simp only [List.all_eq_false, List.mem_range] at h2
    obtain ⟨k, hk, hc⟩ := h2
    exact ⟨k, hk, by simpa using hc⟩
  · exact absurd h (by simp)

theorem State.atCpl3_iff (s : State) : s.atCpl3 = true ↔ s.params.cpl = 3 ∨ s.mode = .v86 := by
  simp [State.atCpl3]

/-- What `alignCheck` can answer. -/
theorem State.alignCheck_some (s : State) (x : Access) (e : Fault) (h : s.alignCheck x = some e) :
    s.mode ≠ .real16 ∧ s.params.alignCheckEnabled = true ∧ (s.accessLinear x).toNat % x.n ≠ 0 ∧
      (s.params.cpl = 3 ∨ s.mode = .v86) ∧ e = .ac 0 := by
  unfold State.alignCheck at h
  split at h
  · rename_i h1
    exact ⟨h1.1, h1.2.1, h1.2.2.1, (s.atCpl3_iff).mp h1.2.2.2, (Option.some.inj h).symm⟩
  · exact absurd h (by simp)

/-- What `pageCheck` can answer. -/
theorem State.pageCheck_some (s : State) (x : Access) (e : Fault) (h : s.pageCheck x = some e) :
    ∃ la ∈ s.accessBytes x, s.translate la true = none ∧ e = .pf (s.pageCode x.n la) la := by
  unfold State.pageCheck at h
  split at h
  · exact absurd h (by simp)
  · rename_i la hf
    exact ⟨la, List.mem_of_find?_eq_some hf, by simpa using List.find?_some hf, (Option.some.inj h).symm⟩

/-- The code of a user-mode write that is refused (`20_memory.md` R50). -/
theorem State.pageCode_user (s : State) (n : Nat) (la : Word64) (h : s.atCpl3 = true) :
    s.pageCode n la = if s.present la = true then 7 else 6 := by
  simp [State.pageCode, h]

/-- A byte lies in a present page exactly when `Translate` gives its place for a read. -/
theorem State.present_iff (s : State) (la : Word64) : s.present la = true ↔ ∃ a, s.translate la false = some a := by
  simp [State.present, Option.isSome_iff_exists]

/-- `Translate` is the identity without paging and in real-address mode. -/
theorem State.translate_identity (s : State) (la : Word64) (w : Bool) (h : s.mode = .real16 ∨ s.params.paging = none) :
    s.translate la w = some la.toNat := by
  unfold State.translate
  split
  · rfl
  · rcases h with h | h
    · contradiction
    · rw [h]

/-! ## The fault reported -/

/-- The reported fault is one of the faults of the classes. -/
theorem State.faultOf_some (s : State) (lock : Bool) (d : Dest) (e : Fault) (h : s.faultOf lock d = some e) :
    ∃ k, s.classFault lock d k = some e := by
  obtain ⟨k, _, hk⟩ := List.exists_of_findSome?_eq_some h
  exact ⟨k, hk⟩

/-- The reported fault depends on the parameters and the place of the destination only (`60_exceptions.md` R212). -/
theorem State.faultOf_params (s s' : State) (lock : Bool) (d : Dest) (h : s'.params = s.params) :
    s'.faultOf lock d = s.faultOf lock d := by
  cases s
  cases s'
  subst h
  rfl

/-- No fault is reported exactly when no class has one. -/
theorem State.faultOf_none (s : State) (lock : Bool) (d : Dest) :
    s.faultOf lock d = none ↔ ∀ k, s.classFault lock d k = none := by
  unfold State.faultOf
  rw [List.findSome?_eq_none_iff]
  refine ⟨fun h k => h k ?_, fun h k _ => h k⟩
  cases k <;> simp [FaultClass.defaultOrder]

/-- Under the default order the first class that applies is reported (`60_exceptions.md` R211). -/
theorem State.faultOf_default (s : State) (lock : Bool) (d : Dest)
    (h : s.params.faultOrder = FaultClass.defaultOrder) :
    s.faultOf lock d = (s.classFault lock d .ud).or ((s.classFault lock d .segment).or
      ((s.classFault lock d .alignment).or (s.classFault lock d .page))) := by
  unfold State.faultOf
  rw [h]
  simp only [FaultClass.defaultOrder, List.cons_append, List.nil_append, List.findSome?_cons, List.findSome?_nil]
  cases s.classFault lock d .ud <;> cases s.classFault lock d .segment <;> cases s.classFault lock d .alignment <;>
    cases s.classFault lock d .page <;> rfl

/-- A register destination without LOCK has no fault. -/
theorem State.faultOf_reg (s : State) (c : BitVec 4) : s.faultOf false (.reg c) = none := by
  rw [State.faultOf_none]
  intro k
  cases k <;> rfl

/-- A memory destination without LOCK has no fault exactly when its four checks pass. -/
theorem State.faultOf_mem_none (s : State) (x : Access) :
    s.faultOf false (.mem x) = none ↔
      s.segCheck x = none ∧ s.canonCheck x = none ∧ s.alignCheck x = none ∧ s.pageCheck x = none := by
  rw [State.faultOf_none]
  constructor
  · intro h
    have h1 := h .segment
    simp only [State.classFault, Option.or_eq_none_iff] at h1
    exact ⟨h1.1, h1.2, h .alignment, h .page⟩
  · rintro ⟨h1, h2, h3, h4⟩ k
    cases k <;> simp [State.classFault, h1, h2, h3, h4]

/-- A destination is refused as device memory or as program text only. -/
theorem State.destRefusal_some (s : State) (d : Dest) (r : Refusal) (h : s.destRefusal d = some r) :
    ∃ x, d = .mem x ∧ (r = .deviceMemory ∧ (s.accessPhys x).any s.inDevice = true ∨
      r = .textOverlap ∧ (s.accessPhys x).any s.inText = true) := by
  cases d with
  | reg c => exact absurd h (by simp [State.destRefusal])
  | mem x =>
    simp only [State.destRefusal] at h
    split at h
    · rename_i h1
      exact ⟨x, rfl, .inl ⟨(Option.some.inj h).symm, h1⟩⟩
    · split at h
      · rename_i h2
        exact ⟨x, rfl, .inr ⟨(Option.some.inj h).symm, h2⟩⟩
      · exact absurd h (by simp)

/-- A destination the spec admits touches neither device memory nor the program text. -/
theorem State.destRefusal_mem_none (s : State) (x : Access) :
    s.destRefusal (.mem x) = none ↔ ∀ a ∈ s.accessPhys x, s.inDevice a = false ∧ s.inText a = false := by
  simp only [State.destRefusal]
  constructor
  · intro h a ha
    split at h
    · exact absurd h (by simp)
    · rename_i h1
      split at h
      · exact absurd h (by simp)
      · rename_i h2
        simp only [List.any_eq_true, not_exists, not_and, Bool.not_eq_true] at h1 h2
        exact ⟨h1 a ha, h2 a ha⟩
  · intro h
    have h1 : (s.accessPhys x).any s.inDevice = false := by
      simp only [List.any_eq_false, Bool.not_eq_true]
      exact fun a ha => (h a ha).1
    have h2 : (s.accessPhys x).any s.inText = false := by
      simp only [List.any_eq_false, Bool.not_eq_true]
      exact fun a ha => (h a ha).2
    simp [h1, h2]

end Sys2Proof.Machine
end

