-- ==== Sys2Proof/Laws/Count.lean ====
section
/-! SUPPORT. The masked count as a remainder, and its bounds. -/

namespace Sys2Proof.Machine

/-- The mask is a remainder. -/
theorem maskedCount_eq_countMod (z : OpSize) (c : BitVec 8) : maskedCount z c = countMod z c := by
  have h1 : ∀ n : Nat, n &&& 0x3F = n % 64 := fun n => Nat.and_two_pow_sub_one_eq_mod n 6
  have h2 : ∀ n : Nat, n &&& 0x1F = n % 32 := fun n => Nat.and_two_pow_sub_one_eq_mod n 5
  cases z <;> simp [maskedCount, countMask, countMod, h1, h2]

theorem countMod_lt (z : OpSize) (c : BitVec 8) : countMod z c < 64 := by
  unfold countMod
  split <;> omega

/-- The effective count of ROL and ROR is below the width. -/
theorem plainCount_lt (z : OpSize) (mc : Nat) : plainCount z mc < z.bits := by
  cases z <;> exact Nat.mod_lt _ (by decide)

end Sys2Proof.Machine
end

