-- ==== Sys2Proof/Laws/Memory.lean ====
section
/-! SUPPORT. The laws of memory: a read after a write, and that every operation keeps the canonical form. -/

namespace Sys2Proof.Machine

/-! ## Reading -/

@[simp] theorem Memory.read_nil (a : Nat) : Memory.read [] a = Memory.unlisted := rfl

theorem Memory.read_of_lt (m : Memory) (lo a : Nat) (h : Memory.wfFrom lo m = true) (ha : a < lo) :
    Memory.read m a = Memory.unlisted := by
  induction m generalizing lo with
  | nil => rfl
  | cons c m ih =>
    simp only [Memory.wfFrom, Bool.and_eq_true, decide_eq_true_eq] at h
    obtain ⟨⟨hlo, _⟩, hm⟩ := h
    have hne : a ≠ c.1 := by omega
    simp only [Memory.read, if_neg hne]
    exact ih (c.1 + 1) hm (by omega)

/-- A write leaves every other byte alone; no canonical form is needed. -/
theorem Memory.read_write_ne (m : Memory) (a b : Nat) (v : Byte) (h : b ≠ a) :
    Memory.read (Memory.write m a v) b = Memory.read m b := by
  induction m with
  | nil => by_cases hv : v = Memory.unlisted <;> simp [Memory.write, Memory.read, hv, h]
  | cons c m ih =>
    by_cases h1 : a < c.1
    · by_cases hv : v = Memory.unlisted <;> simp [Memory.write, Memory.read, h1, hv, h]
    · by_cases h2 : a = c.1
      · subst h2
        by_cases hv : v = Memory.unlisted <;> simp [Memory.write, Memory.read, hv, h]
      · by_cases h3 : b = c.1
        · simp [Memory.write, Memory.read, h1, h2, h3]
        · simp [Memory.write, Memory.read, h1, h2, h3, ih]

theorem Memory.read_write_self_from (m : Memory) (lo a : Nat) (v : Byte) (h : Memory.wfFrom lo m = true) :
    Memory.read (Memory.write m a v) a = v := by
  induction m generalizing lo with
  | nil => by_cases hv : v = Memory.unlisted <;> simp [Memory.write, Memory.read, hv]
  | cons c m ih =>
    simp only [Memory.wfFrom, Bool.and_eq_true, decide_eq_true_eq] at h
    obtain ⟨⟨hlo, hc⟩, hm⟩ := h
    by_cases h1 : a < c.1
    · by_cases hv : v = Memory.unlisted
      · have hne : a ≠ c.1 := by omega
        simp only [Memory.write, if_pos h1, if_pos hv, Memory.read, if_neg hne]
        rw [hv]
        exact Memory.read_of_lt m (c.1 + 1) a hm (by omega)
      · simp [Memory.write, Memory.read, h1, hv]
    · by_cases h2 : a = c.1
      · by_cases hv : v = Memory.unlisted
        · simp only [Memory.write, if_neg h1, if_pos h2, if_pos hv]
          rw [hv]
          exact Memory.read_of_lt m (c.1 + 1) a hm (by omega)
        · subst h2
          simp [Memory.write, Memory.read, hv]
      · simp only [Memory.write, if_neg h1, if_neg h2, Memory.read]
        exact ih (c.1 + 1) hm

/-- A byte just written reads back. -/
theorem Memory.read_write_self (m : Memory) (a : Nat) (v : Byte) (h : m.wf = true) :
    Memory.read (Memory.write m a v) a = v := Memory.read_write_self_from m 0 a v h

/-! ## The canonical form -/

theorem Memory.wfFrom_mono (m : Memory) (lo lo' : Nat) (h : Memory.wfFrom lo m = true) (hl : lo' ≤ lo) :
    Memory.wfFrom lo' m = true := by
  cases m with
  | nil => rfl
  | cons c m =>
    simp only [Memory.wfFrom, Bool.and_eq_true, decide_eq_true_eq] at h ⊢
    exact ⟨⟨by omega, h.1.2⟩, h.2⟩

theorem Memory.write_wfFrom (m : Memory) (lo a : Nat) (v : Byte) (h : Memory.wfFrom lo m = true) (ha : lo ≤ a) :
    Memory.wfFrom lo (Memory.write m a v) = true := by
  induction m generalizing lo with
  | nil => by_cases hv : v = Memory.unlisted <;> simp [Memory.write, Memory.wfFrom, hv, ha]
  | cons c m ih =>
    have h' := h
    simp only [Memory.wfFrom, Bool.and_eq_true, decide_eq_true_eq] at h'
    obtain ⟨⟨hlo, hc⟩, hm⟩ := h'
    by_cases h1 : a < c.1
    · by_cases hv : v = Memory.unlisted
      · simpa only [Memory.write, if_pos h1, if_pos hv] using h
      · simp only [Memory.write, if_pos h1, if_neg hv, Memory.wfFrom, Bool.and_eq_true, decide_eq_true_eq]
        exact ⟨⟨ha, hv⟩, ⟨by omega, hc⟩, hm⟩
    · by_cases h2 : a = c.1
      · by_cases hv : v = Memory.unlisted
        · simp only [Memory.write, if_neg h1, if_pos h2, if_pos hv]
          exact Memory.wfFrom_mono m (c.1 + 1) lo hm (by omega)
        · simp only [Memory.write, if_neg h1, if_pos h2, if_neg hv, Memory.wfFrom, Bool.and_eq_true, decide_eq_true_eq]
          subst h2
          exact ⟨⟨ha, hv⟩, hm⟩
      · simp only [Memory.write, if_neg h1, if_neg h2, Memory.wfFrom, Bool.and_eq_true, decide_eq_true_eq]
        exact ⟨⟨hlo, hc⟩, ih (c.1 + 1) hm (by omega)⟩

/-- A write keeps the canonical form. -/
theorem Memory.write_wf (m : Memory) (a : Nat) (v : Byte) (h : m.wf = true) : (m.write a v).wf = true :=
  Memory.write_wfFrom m 0 a v h (Nat.zero_le a)

/-- A store of several bytes keeps the canonical form. -/
theorem Memory.writeList_wf (m : Memory) (as : List Nat) (v : Nat) (h : m.wf = true) : (m.writeList as v).wf = true := by
  induction as generalizing m v with
  | nil => exact h
  | cons a as ih => exact ih _ _ (Memory.write_wf m a _ h)

/-- The memory after reset is canonical. -/
theorem State.reset_mem_wf : State.reset.mem.wf = true := rfl

/-! ## Stores of several bytes -/

/-- A store leaves every byte outside its locations alone. -/
theorem Memory.read_writeList_of_not_mem (m : Memory) (as : List Nat) (v b : Nat) (h : b ∉ as) :
    (m.writeList as v).read b = m.read b := by
  induction as generalizing m v with
  | nil => rfl
  | cons a as ih =>
    simp only [List.mem_cons, not_or] at h
    rw [Memory.writeList, ih _ _ h.2, Memory.read_write_ne m a b _ h.1]

theorem Memory.readList_lt (m : Memory) (as : List Nat) : m.readList as < 256 ^ as.length := by
  induction as with
  | nil => simp [Memory.readList]
  | cons a as ih =>
    have := (m.read a).isLt
    simp only [Memory.readList, List.length_cons, Nat.pow_succ]
    omega

/-- Reading locations that a change of memory leaves alone. -/
theorem Memory.readList_congr (m m' : Memory) (as : List Nat) (h : ∀ a ∈ as, m'.read a = m.read a) :
    m'.readList as = m.readList as := by
  induction as with
  | nil => rfl
  | cons a as ih =>
    rw [Memory.readList, Memory.readList, h a (by simp), ih fun b hb => h b (by simp [hb])]

end Sys2Proof.Machine
end

