-- ==== Sys2Proof/Laws/State.lean ====
section
/-! SUPPORT. One lemma for each field under each update of the state, so that no proof unfolds a record update; the readings
that depend on one field only; `setReg` and `reg`. -/

namespace Sys2Proof.Machine

/-! ## `setReg` -/

@[simp] theorem State.setReg_regs (s : State) (c : BitVec 4) (v : Word64) : (s.setReg c v).regs = s.regs.set c.toNat v c.isLt := rfl

@[simp] theorem State.setReg_pc (s : State) (c : BitVec 4) (v : Word64) : (s.setReg c v).pc = s.pc := rfl

@[simp] theorem State.setReg_cf (s : State) (c : BitVec 4) (v : Word64) : (s.setReg c v).cf = s.cf := rfl

@[simp] theorem State.setReg_pf (s : State) (c : BitVec 4) (v : Word64) : (s.setReg c v).pf = s.pf := rfl

@[simp] theorem State.setReg_af (s : State) (c : BitVec 4) (v : Word64) : (s.setReg c v).af = s.af := rfl

@[simp] theorem State.setReg_zf (s : State) (c : BitVec 4) (v : Word64) : (s.setReg c v).zf = s.zf := rfl

@[simp] theorem State.setReg_sf (s : State) (c : BitVec 4) (v : Word64) : (s.setReg c v).sf = s.sf := rfl

@[simp] theorem State.setReg_of (s : State) (c : BitVec 4) (v : Word64) : (s.setReg c v).of = s.of := rfl

@[simp] theorem State.setReg_mem (s : State) (c : BitVec 4) (v : Word64) : (s.setReg c v).mem = s.mem := rfl

@[simp] theorem State.setReg_params (s : State) (c : BitVec 4) (v : Word64) : (s.setReg c v).params = s.params := rfl

@[simp] theorem State.setReg_draws (s : State) (c : BitVec 4) (v : Word64) : (s.setReg c v).draws = s.draws := rfl

@[simp] theorem State.setReg_executed (s : State) (c : BitVec 4) (v : Word64) : (s.setReg c v).executed = s.executed := rfl

@[simp] theorem State.setReg_mode (s : State) (c : BitVec 4) (v : Word64) : (s.setReg c v).mode = s.mode := rfl

/-! ## `setCf` -/

@[simp] theorem State.setCf_regs (s : State) (b : Bool) : (s.setCf b).regs = s.regs := rfl

@[simp] theorem State.setCf_pc (s : State) (b : Bool) : (s.setCf b).pc = s.pc := rfl

@[simp] theorem State.setCf_cf (s : State) (b : Bool) : (s.setCf b).cf = b := rfl

@[simp] theorem State.setCf_pf (s : State) (b : Bool) : (s.setCf b).pf = s.pf := rfl

@[simp] theorem State.setCf_af (s : State) (b : Bool) : (s.setCf b).af = s.af := rfl

@[simp] theorem State.setCf_zf (s : State) (b : Bool) : (s.setCf b).zf = s.zf := rfl

@[simp] theorem State.setCf_sf (s : State) (b : Bool) : (s.setCf b).sf = s.sf := rfl

@[simp] theorem State.setCf_of (s : State) (b : Bool) : (s.setCf b).of = s.of := rfl

@[simp] theorem State.setCf_mem (s : State) (b : Bool) : (s.setCf b).mem = s.mem := rfl

@[simp] theorem State.setCf_params (s : State) (b : Bool) : (s.setCf b).params = s.params := rfl

@[simp] theorem State.setCf_draws (s : State) (b : Bool) : (s.setCf b).draws = s.draws := rfl

@[simp] theorem State.setCf_executed (s : State) (b : Bool) : (s.setCf b).executed = s.executed := rfl

@[simp] theorem State.setCf_mode (s : State) (b : Bool) : (s.setCf b).mode = s.mode := rfl

@[simp] theorem State.setCf_reg (s : State) (b : Bool) (k : BitVec 4) : (s.setCf b).reg k = s.reg k := rfl

/-! ## `setOf` -/

@[simp] theorem State.setOf_regs (s : State) (b : Bool) : (s.setOf b).regs = s.regs := rfl

@[simp] theorem State.setOf_pc (s : State) (b : Bool) : (s.setOf b).pc = s.pc := rfl

@[simp] theorem State.setOf_cf (s : State) (b : Bool) : (s.setOf b).cf = s.cf := rfl

@[simp] theorem State.setOf_pf (s : State) (b : Bool) : (s.setOf b).pf = s.pf := rfl

@[simp] theorem State.setOf_af (s : State) (b : Bool) : (s.setOf b).af = s.af := rfl

@[simp] theorem State.setOf_zf (s : State) (b : Bool) : (s.setOf b).zf = s.zf := rfl

@[simp] theorem State.setOf_sf (s : State) (b : Bool) : (s.setOf b).sf = s.sf := rfl

@[simp] theorem State.setOf_of (s : State) (b : Bool) : (s.setOf b).of = b := rfl

@[simp] theorem State.setOf_mem (s : State) (b : Bool) : (s.setOf b).mem = s.mem := rfl

@[simp] theorem State.setOf_params (s : State) (b : Bool) : (s.setOf b).params = s.params := rfl

@[simp] theorem State.setOf_draws (s : State) (b : Bool) : (s.setOf b).draws = s.draws := rfl

@[simp] theorem State.setOf_executed (s : State) (b : Bool) : (s.setOf b).executed = s.executed := rfl

@[simp] theorem State.setOf_mode (s : State) (b : Bool) : (s.setOf b).mode = s.mode := rfl

@[simp] theorem State.setOf_reg (s : State) (b : Bool) (k : BitVec 4) : (s.setOf b).reg k = s.reg k := rfl

/-! ## `drawOf` -/

@[simp] theorem State.drawOf_regs (s : State) : (s.drawOf).regs = s.regs := rfl

@[simp] theorem State.drawOf_pc (s : State) : (s.drawOf).pc = s.pc := rfl

@[simp] theorem State.drawOf_cf (s : State) : (s.drawOf).cf = s.cf := rfl

@[simp] theorem State.drawOf_pf (s : State) : (s.drawOf).pf = s.pf := rfl

@[simp] theorem State.drawOf_af (s : State) : (s.drawOf).af = s.af := rfl

@[simp] theorem State.drawOf_zf (s : State) : (s.drawOf).zf = s.zf := rfl

@[simp] theorem State.drawOf_sf (s : State) : (s.drawOf).sf = s.sf := rfl

@[simp] theorem State.drawOf_of (s : State) : (s.drawOf).of = Config.undefinedBit s.draws := rfl

@[simp] theorem State.drawOf_mem (s : State) : (s.drawOf).mem = s.mem := rfl

@[simp] theorem State.drawOf_params (s : State) : (s.drawOf).params = s.params := rfl

@[simp] theorem State.drawOf_draws (s : State) : (s.drawOf).draws = s.draws + 1 := rfl

@[simp] theorem State.drawOf_executed (s : State) : (s.drawOf).executed = s.executed := rfl

@[simp] theorem State.drawOf_mode (s : State) : (s.drawOf).mode = s.mode := rfl

@[simp] theorem State.drawOf_reg (s : State) (k : BitVec 4) : (s.drawOf).reg k = s.reg k := rfl

/-! ## `setMem` -/

@[simp] theorem State.setMem_regs (s : State) (m : Memory) : (s.setMem m).regs = s.regs := rfl

@[simp] theorem State.setMem_pc (s : State) (m : Memory) : (s.setMem m).pc = s.pc := rfl

@[simp] theorem State.setMem_cf (s : State) (m : Memory) : (s.setMem m).cf = s.cf := rfl

@[simp] theorem State.setMem_pf (s : State) (m : Memory) : (s.setMem m).pf = s.pf := rfl

@[simp] theorem State.setMem_af (s : State) (m : Memory) : (s.setMem m).af = s.af := rfl

@[simp] theorem State.setMem_zf (s : State) (m : Memory) : (s.setMem m).zf = s.zf := rfl

@[simp] theorem State.setMem_sf (s : State) (m : Memory) : (s.setMem m).sf = s.sf := rfl

@[simp] theorem State.setMem_of (s : State) (m : Memory) : (s.setMem m).of = s.of := rfl

@[simp] theorem State.setMem_mem (s : State) (m : Memory) : (s.setMem m).mem = m := rfl

@[simp] theorem State.setMem_params (s : State) (m : Memory) : (s.setMem m).params = s.params := rfl

@[simp] theorem State.setMem_draws (s : State) (m : Memory) : (s.setMem m).draws = s.draws := rfl

@[simp] theorem State.setMem_executed (s : State) (m : Memory) : (s.setMem m).executed = s.executed := rfl

@[simp] theorem State.setMem_mode (s : State) (m : Memory) : (s.setMem m).mode = s.mode := rfl

@[simp] theorem State.setMem_reg (s : State) (m : Memory) (k : BitVec 4) : (s.setMem m).reg k = s.reg k := rfl

/-! ## `setPc` -/

@[simp] theorem State.setPc_regs (s : State) (v : Word64) : (s.setPc v).regs = s.regs := rfl

@[simp] theorem State.setPc_pc (s : State) (v : Word64) : (s.setPc v).pc = v := rfl

@[simp] theorem State.setPc_cf (s : State) (v : Word64) : (s.setPc v).cf = s.cf := rfl

@[simp] theorem State.setPc_pf (s : State) (v : Word64) : (s.setPc v).pf = s.pf := rfl

@[simp] theorem State.setPc_af (s : State) (v : Word64) : (s.setPc v).af = s.af := rfl

@[simp] theorem State.setPc_zf (s : State) (v : Word64) : (s.setPc v).zf = s.zf := rfl

@[simp] theorem State.setPc_sf (s : State) (v : Word64) : (s.setPc v).sf = s.sf := rfl

@[simp] theorem State.setPc_of (s : State) (v : Word64) : (s.setPc v).of = s.of := rfl

@[simp] theorem State.setPc_mem (s : State) (v : Word64) : (s.setPc v).mem = s.mem := rfl

@[simp] theorem State.setPc_params (s : State) (v : Word64) : (s.setPc v).params = s.params := rfl

@[simp] theorem State.setPc_draws (s : State) (v : Word64) : (s.setPc v).draws = s.draws := rfl

@[simp] theorem State.setPc_executed (s : State) (v : Word64) : (s.setPc v).executed = s.executed := rfl

@[simp] theorem State.setPc_mode (s : State) (v : Word64) : (s.setPc v).mode = s.mode := rfl

@[simp] theorem State.setPc_reg (s : State) (v : Word64) (k : BitVec 4) : (s.setPc v).reg k = s.reg k := rfl

/-! ## `advance` -/

@[simp] theorem State.advance_regs (s : State) (n : Nat) : (s.advance n).regs = s.regs := rfl

@[simp] theorem State.advance_pc (s : State) (n : Nat) : (s.advance n).pc = s.pcPlus n := rfl

@[simp] theorem State.advance_cf (s : State) (n : Nat) : (s.advance n).cf = s.cf := rfl

@[simp] theorem State.advance_pf (s : State) (n : Nat) : (s.advance n).pf = s.pf := rfl

@[simp] theorem State.advance_af (s : State) (n : Nat) : (s.advance n).af = s.af := rfl

@[simp] theorem State.advance_zf (s : State) (n : Nat) : (s.advance n).zf = s.zf := rfl

@[simp] theorem State.advance_sf (s : State) (n : Nat) : (s.advance n).sf = s.sf := rfl

@[simp] theorem State.advance_of (s : State) (n : Nat) : (s.advance n).of = s.of := rfl

@[simp] theorem State.advance_mem (s : State) (n : Nat) : (s.advance n).mem = s.mem := rfl

@[simp] theorem State.advance_params (s : State) (n : Nat) : (s.advance n).params = s.params := rfl

@[simp] theorem State.advance_draws (s : State) (n : Nat) : (s.advance n).draws = s.draws := rfl

@[simp] theorem State.advance_executed (s : State) (n : Nat) : (s.advance n).executed = s.executed + n := rfl

@[simp] theorem State.advance_mode (s : State) (n : Nat) : (s.advance n).mode = s.mode := rfl

@[simp] theorem State.advance_reg (s : State) (n : Nat) (k : BitVec 4) : (s.advance n).reg k = s.reg k := rfl

/-! ## `setText` -/

@[simp] theorem State.setText_regs (s : State) (n : Nat) : (s.setText n).regs = s.regs := rfl

@[simp] theorem State.setText_pc (s : State) (n : Nat) : (s.setText n).pc = s.pc := rfl

@[simp] theorem State.setText_cf (s : State) (n : Nat) : (s.setText n).cf = s.cf := rfl

@[simp] theorem State.setText_pf (s : State) (n : Nat) : (s.setText n).pf = s.pf := rfl

@[simp] theorem State.setText_af (s : State) (n : Nat) : (s.setText n).af = s.af := rfl

@[simp] theorem State.setText_zf (s : State) (n : Nat) : (s.setText n).zf = s.zf := rfl

@[simp] theorem State.setText_sf (s : State) (n : Nat) : (s.setText n).sf = s.sf := rfl

@[simp] theorem State.setText_of (s : State) (n : Nat) : (s.setText n).of = s.of := rfl

@[simp] theorem State.setText_mem (s : State) (n : Nat) : (s.setText n).mem = s.mem := rfl

@[simp] theorem State.setText_params (s : State) (n : Nat) : (s.setText n).params = { s.params with textStart := s.pc, textLen := n } := rfl

@[simp] theorem State.setText_draws (s : State) (n : Nat) : (s.setText n).draws = s.draws := rfl

@[simp] theorem State.setText_executed (s : State) (n : Nat) : (s.setText n).executed = 0 := rfl

@[simp] theorem State.setText_mode (s : State) (n : Nat) : (s.setText n).mode = s.mode := rfl

@[simp] theorem State.setText_reg (s : State) (n : Nat) (k : BitVec 4) : (s.setText n).reg k = s.reg k := rfl

/-! ## Reading a register after writing one -/

@[simp] theorem State.setReg_reg_self (s : State) (c : BitVec 4) (v : Word64) : (s.setReg c v).reg c = v := by
  simp [State.reg]

theorem State.setReg_reg_ne (s : State) (c k : BitVec 4) (v : Word64) (h : k ≠ c) : (s.setReg c v).reg k = s.reg k := by
  have : c.toNat ≠ k.toNat := fun e => h (BitVec.eq_of_toNat_eq e.symm)
  simp [State.reg, this]

/-! ## The two flag writers -/

@[simp] theorem State.applyCf_regs (s : State) (o : Option Bool) : (s.applyCf o).regs = s.regs := by cases o <;> rfl

@[simp] theorem State.applyCf_pc (s : State) (o : Option Bool) : (s.applyCf o).pc = s.pc := by cases o <;> rfl

@[simp] theorem State.applyCf_pf (s : State) (o : Option Bool) : (s.applyCf o).pf = s.pf := by cases o <;> rfl

@[simp] theorem State.applyCf_af (s : State) (o : Option Bool) : (s.applyCf o).af = s.af := by cases o <;> rfl

@[simp] theorem State.applyCf_zf (s : State) (o : Option Bool) : (s.applyCf o).zf = s.zf := by cases o <;> rfl

@[simp] theorem State.applyCf_sf (s : State) (o : Option Bool) : (s.applyCf o).sf = s.sf := by cases o <;> rfl

@[simp] theorem State.applyCf_of (s : State) (o : Option Bool) : (s.applyCf o).of = s.of := by cases o <;> rfl

@[simp] theorem State.applyCf_mem (s : State) (o : Option Bool) : (s.applyCf o).mem = s.mem := by cases o <;> rfl

@[simp] theorem State.applyCf_params (s : State) (o : Option Bool) : (s.applyCf o).params = s.params := by cases o <;> rfl

@[simp] theorem State.applyCf_draws (s : State) (o : Option Bool) : (s.applyCf o).draws = s.draws := by cases o <;> rfl

@[simp] theorem State.applyCf_executed (s : State) (o : Option Bool) : (s.applyCf o).executed = s.executed := by cases o <;> rfl

@[simp] theorem State.applyCf_mode (s : State) (o : Option Bool) : (s.applyCf o).mode = s.mode := by cases o <;> rfl

@[simp] theorem State.applyOf_regs (s : State) (o : OfNew) : (s.applyOf o).regs = s.regs := by cases o <;> rfl

@[simp] theorem State.applyOf_pc (s : State) (o : OfNew) : (s.applyOf o).pc = s.pc := by cases o <;> rfl

@[simp] theorem State.applyOf_cf (s : State) (o : OfNew) : (s.applyOf o).cf = s.cf := by cases o <;> rfl

@[simp] theorem State.applyOf_pf (s : State) (o : OfNew) : (s.applyOf o).pf = s.pf := by cases o <;> rfl

@[simp] theorem State.applyOf_af (s : State) (o : OfNew) : (s.applyOf o).af = s.af := by cases o <;> rfl

@[simp] theorem State.applyOf_zf (s : State) (o : OfNew) : (s.applyOf o).zf = s.zf := by cases o <;> rfl

@[simp] theorem State.applyOf_sf (s : State) (o : OfNew) : (s.applyOf o).sf = s.sf := by cases o <;> rfl

@[simp] theorem State.applyOf_mem (s : State) (o : OfNew) : (s.applyOf o).mem = s.mem := by cases o <;> rfl

@[simp] theorem State.applyOf_params (s : State) (o : OfNew) : (s.applyOf o).params = s.params := by cases o <;> rfl

@[simp] theorem State.applyOf_executed (s : State) (o : OfNew) : (s.applyOf o).executed = s.executed := by cases o <;> rfl

@[simp] theorem State.applyOf_mode (s : State) (o : OfNew) : (s.applyOf o).mode = s.mode := by cases o <;> rfl

theorem State.applyCf_cf (s : State) (o : Option Bool) : (s.applyCf o).cf = o.getD s.cf := by cases o <;> rfl

theorem State.applyOf_of (s : State) (o : OfNew) : (s.applyOf o).of =
    match o with
    | .unchanged => s.of
    | .set b => b
    | .undefined => Config.undefinedBit s.draws := by cases o <;> rfl

theorem State.applyOf_draws (s : State) (o : OfNew) :
    (s.applyOf o).draws = if o = .undefined then s.draws + 1 else s.draws := by cases o <;> rfl

/-! ## Writing the destination -/

@[simp] theorem writeReg_pc (z : OpSize) (c : BitVec 4) (r : Bool) (v : BitVec z.bits) (s : State) :
    (writeReg z c r v s).pc = s.pc := rfl

@[simp] theorem writeReg_cf (z : OpSize) (c : BitVec 4) (r : Bool) (v : BitVec z.bits) (s : State) :
    (writeReg z c r v s).cf = s.cf := rfl

@[simp] theorem writeReg_pf (z : OpSize) (c : BitVec 4) (r : Bool) (v : BitVec z.bits) (s : State) :
    (writeReg z c r v s).pf = s.pf := rfl

@[simp] theorem writeReg_af (z : OpSize) (c : BitVec 4) (r : Bool) (v : BitVec z.bits) (s : State) :
    (writeReg z c r v s).af = s.af := rfl

@[simp] theorem writeReg_zf (z : OpSize) (c : BitVec 4) (r : Bool) (v : BitVec z.bits) (s : State) :
    (writeReg z c r v s).zf = s.zf := rfl

@[simp] theorem writeReg_sf (z : OpSize) (c : BitVec 4) (r : Bool) (v : BitVec z.bits) (s : State) :
    (writeReg z c r v s).sf = s.sf := rfl

@[simp] theorem writeReg_of (z : OpSize) (c : BitVec 4) (r : Bool) (v : BitVec z.bits) (s : State) :
    (writeReg z c r v s).of = s.of := rfl

@[simp] theorem writeReg_mem (z : OpSize) (c : BitVec 4) (r : Bool) (v : BitVec z.bits) (s : State) :
    (writeReg z c r v s).mem = s.mem := rfl

@[simp] theorem writeReg_params (z : OpSize) (c : BitVec 4) (r : Bool) (v : BitVec z.bits) (s : State) :
    (writeReg z c r v s).params = s.params := rfl

@[simp] theorem writeReg_draws (z : OpSize) (c : BitVec 4) (r : Bool) (v : BitVec z.bits) (s : State) :
    (writeReg z c r v s).draws = s.draws := rfl

@[simp] theorem writeReg_executed (z : OpSize) (c : BitVec 4) (r : Bool) (v : BitVec z.bits) (s : State) :
    (writeReg z c r v s).executed = s.executed := rfl

@[simp] theorem writeReg_mode (z : OpSize) (c : BitVec 4) (r : Bool) (v : BitVec z.bits) (s : State) :
    (writeReg z c r v s).mode = s.mode := rfl

@[simp] theorem writeDest_pc (z : OpSize) (r : Bool) (d : Dest) (v : BitVec z.bits) (s : State) :
    (writeDest z r d v s).pc = s.pc := by cases d <;> rfl

@[simp] theorem writeDest_cf (z : OpSize) (r : Bool) (d : Dest) (v : BitVec z.bits) (s : State) :
    (writeDest z r d v s).cf = s.cf := by cases d <;> rfl

@[simp] theorem writeDest_pf (z : OpSize) (r : Bool) (d : Dest) (v : BitVec z.bits) (s : State) :
    (writeDest z r d v s).pf = s.pf := by cases d <;> rfl

@[simp] theorem writeDest_af (z : OpSize) (r : Bool) (d : Dest) (v : BitVec z.bits) (s : State) :
    (writeDest z r d v s).af = s.af := by cases d <;> rfl

@[simp] theorem writeDest_zf (z : OpSize) (r : Bool) (d : Dest) (v : BitVec z.bits) (s : State) :
    (writeDest z r d v s).zf = s.zf := by cases d <;> rfl

@[simp] theorem writeDest_sf (z : OpSize) (r : Bool) (d : Dest) (v : BitVec z.bits) (s : State) :
    (writeDest z r d v s).sf = s.sf := by cases d <;> rfl

@[simp] theorem writeDest_of (z : OpSize) (r : Bool) (d : Dest) (v : BitVec z.bits) (s : State) :
    (writeDest z r d v s).of = s.of := by cases d <;> rfl

@[simp] theorem writeDest_params (z : OpSize) (r : Bool) (d : Dest) (v : BitVec z.bits) (s : State) :
    (writeDest z r d v s).params = s.params := by cases d <;> rfl

@[simp] theorem writeDest_draws (z : OpSize) (r : Bool) (d : Dest) (v : BitVec z.bits) (s : State) :
    (writeDest z r d v s).draws = s.draws := by cases d <;> rfl

@[simp] theorem writeDest_executed (z : OpSize) (r : Bool) (d : Dest) (v : BitVec z.bits) (s : State) :
    (writeDest z r d v s).executed = s.executed := by cases d <;> rfl

@[simp] theorem writeDest_mode (z : OpSize) (r : Bool) (d : Dest) (v : BitVec z.bits) (s : State) :
    (writeDest z r d v s).mode = s.mode := by cases d <;> rfl

end Sys2Proof.Machine
end

