-- ==== Sys2Proof/Laws/Execute.lean ====
section
/-! SUPPORT. What the execution of a rotate and a step of the machine can do, said once; the frame of the shared write-back. -/

namespace Sys2Proof.Machine

/-- Every meaning is the shared execution of its row's form. -/
theorem exec_eq_execRotate (i : Instr) (s : State) : exec i s = execRotate i.form s := by
  cases i <;> rfl

/-- A rotate completes exactly when its row exists in the mode, no fault applies and the destination is admitted; it then
does `commit` and nothing else. -/
theorem execRotate_next (f : Form) (s t : State) :
    execRotate f s = .next t ↔
      existsInMode f s = true ∧ s.faultOf f.lock (destOf f s) = none ∧ s.destRefusal (destOf f s) = none ∧ t = commit f s := by
  unfold execRotate
  cases existsInMode f s <;> cases s.faultOf f.lock (destOf f s) <;> cases s.destRefusal (destOf f s) <;>
    simp [raise, eq_comm]

/-- A rotate faults exactly when its row exists in the mode and a fault applies. -/
theorem execRotate_fault (f : Form) (s : State) (e : Fault) :
    execRotate f s = .fault e ↔ existsInMode f s = true ∧ s.faultOf f.lock (destOf f s) = some e := by
  unfold execRotate
  cases existsInMode f s <;> cases s.faultOf f.lock (destOf f s) <;> cases s.destRefusal (destOf f s) <;>
    simp [raise]

/-- A rotate is refused exactly when its row does not exist in the mode, or no fault applies and the destination is not
admitted. -/
theorem execRotate_refused (f : Form) (s : State) (r : Refusal) :
    execRotate f s = .refused r ↔
      (existsInMode f s = false ∧ r = .notEncodable) ∨
        (existsInMode f s = true ∧ s.faultOf f.lock (destOf f s) = none ∧ s.destRefusal (destOf f s) = some r) := by
  unfold execRotate
  cases existsInMode f s <;> cases s.faultOf f.lock (destOf f s) <;> cases s.destRefusal (destOf f s) <;>
    simp [raise, eq_comm]

/-! ## The write-back -/

@[simp] theorem commit_pf (f : Form) (s : State) : (commit f s).pf = s.pf := by simp [commit]

@[simp] theorem commit_af (f : Form) (s : State) : (commit f s).af = s.af := by simp [commit]

@[simp] theorem commit_zf (f : Form) (s : State) : (commit f s).zf = s.zf := by simp [commit]

@[simp] theorem commit_sf (f : Form) (s : State) : (commit f s).sf = s.sf := by simp [commit]

@[simp] theorem commit_params (f : Form) (s : State) : (commit f s).params = s.params := by simp [commit]

@[simp] theorem commit_mode (f : Form) (s : State) : (commit f s).mode = s.mode := by simp [commit]

@[simp] theorem commit_pc (f : Form) (s : State) : (commit f s).pc = s.pcPlus f.length := by
  simp [commit, State.pcPlus]

@[simp] theorem commit_executed (f : Form) (s : State) : (commit f s).executed = s.executed + f.length := by
  simp [commit]

@[simp] theorem commit_regs (f : Form) (s : State) :
    (commit f s).regs = (writeDest f.size f.rex.isSome (destOf f s) (rotated f s).result s).regs := by simp [commit]

@[simp] theorem commit_mem (f : Form) (s : State) :
    (commit f s).mem = (writeDest f.size f.rex.isSome (destOf f s) (rotated f s).result s).mem := by simp [commit]

theorem commit_cf (f : Form) (s : State) : (commit f s).cf = (rotated f s).cfNew.getD s.cf := by
  simp [commit, State.applyCf_cf]

/-- The write-back keeps the canonical form of memory. -/
theorem writeDest_mem_wf (z : OpSize) (r : Bool) (d : Dest) (v : BitVec z.bits) (s : State) (h : s.mem.wf = true) :
    (writeDest z r d v s).mem.wf = true := by
  cases d with
  | reg c => exact h
  | mem x => exact Memory.writeList_wf s.mem (s.accessPhys x) v.toNat h

/-- A write to memory changes no byte outside the locations of the access. -/
theorem writeDest_mem_read (z : OpSize) (r : Bool) (x : Access) (v : BitVec z.bits) (s : State) (a : Nat)
    (h : a ∉ s.accessPhys x) : (writeDest z r (.mem x) v s).mem.read a = s.mem.read a :=
  Memory.read_writeList_of_not_mem s.mem (s.accessPhys x) v.toNat a h

/-- A destination is a register exactly for the register forms. -/
theorem destOf_reg_iff (f : Form) (s : State) :
    (∃ c, destOf f s = .reg c) ↔ ∃ r, f.rm = .reg r := by
  unfold destOf
  split <;> simp_all

/-- The segment, the address and the width of a memory destination. -/
theorem destOf_mem (f : Form) (s : State) (x : Access) (h : destOf f s = .mem x) :
    x = ⟨segmentOf f, effectiveAddress f s, f.size.bytes⟩ := by
  unfold destOf at h
  split at h
  · exact absurd h (by simp)
  · exact (Dest.mem.inj h).symm

/-! ## The place of `pc` in the program text -/

theorem two_pow_pcBits_le (m : Mode) : 2 ^ pcBits m ≤ 2 ^ 64 := Nat.pow_le_pow_right (by decide) (by cases m <;> decide)

/-- A text offset as a number. -/
theorem State.textOffset_toNat (s : State) (n : Nat) :
    (s.textOffset n).toNat = (s.params.textStart.toNat + n) % 2 ^ pcBits s.mode := by
  rw [State.textOffset, BitVec.toNat_ofNat]
  exact Nat.mod_eq_of_lt (Nat.lt_of_lt_of_le (Nat.mod_lt _ (Nat.two_pow_pos _)) (two_pow_pcBits_le s.mode))

/-- `n` bytes after the text offset `k` lies the text offset `k + n`. -/
theorem State.pcPlus_textOffset (s : State) (k n : Nat) (h : s.pc = s.textOffset k) :
    s.pcPlus n = s.textOffset (k + n) := by
  rw [State.pcPlus, h, State.textOffset_toNat, Nat.mod_add_mod, State.textOffset, Nat.add_assoc]

/-- Behind the first byte of the text by `k` modulo the width of `pc`. -/
theorem State.textIndex_textOffset (s : State) (k : Nat) (h : s.pc.toNat = (s.textOffset k).toNat) :
    s.textIndex = k % 2 ^ pcBits s.mode := by
  rw [State.textIndex, h, State.textOffset_toNat]
  generalize s.params.textStart.toNat = p
  have hM := Nat.two_pow_pos (pcBits s.mode)
  generalize 2 ^ pcBits s.mode = M at hM
  have hp := Nat.mod_lt p hM
  have hd := Nat.div_add_mod p M
  have e : (p + k) % M + M - p % M = (p + k) % M + (M - p % M) := by omega
  have e' : p + k + (M - p % M) = k + M * (p / M + 1) := by rw [Nat.mul_add]; omega
  rw [e, Nat.mod_add_mod, e', Nat.add_mul_mod_self_left]

/-- A span below `2^64` lies in one half of the canonical addresses exactly when each of its addresses is canonical. -/
theorem canonicalSpan_iff (k : LaBits) (n a : Nat) (hn : 0 < n) (h : a + n ≤ 2 ^ 64) :
    canonicalSpan k n a = true ↔ ∀ j, j < n → isCanonical k (a + j) = true := by
  have hb : 2 ^ (laBitsNat k - 1) < 2 ^ 64 - 2 ^ (laBitsNat k - 1) := by cases k <;> decide
  simp only [canonicalSpan, isCanonical, Bool.or_eq_true, Bool.and_eq_true, decide_eq_true_eq]
  generalize 2 ^ (laBitsNat k - 1) = half at hb
  constructor
  · intro hs j hj
    omega
  · intro hs
    have first := hs 0 hn
    have boundary := hs (half - a)
    omega

/-! ## One step -/

/-- A step completes exactly when the fetch gives an instruction whose meaning completes. -/
theorem step_next (s t : State) : step s = .next t ↔ ∃ i, s.fetch = .ok i ∧ exec i s = .next t := by
  unfold step
  cases s.fetch <;> simp

/-- A step faults exactly when the fetched instruction faults. -/
theorem step_fault (s : State) (e : Fault) : step s = .fault e ↔ ∃ i, s.fetch = .ok i ∧ exec i s = .fault e := by
  unfold step
  cases s.fetch <;> simp

/-- Nothing of the text is left exactly when `pc` lies outside it or as many bytes as it has are executed. -/
theorem State.textLeft_eq_zero (s : State) :
    s.textLeft = 0 ↔ s.params.textLen ≤ s.textIndex ∨ s.params.textLen ≤ s.executed := by
  unfold State.textLeft
  omega

/-- The bytes a fetch takes, and when it does. -/
theorem State.fetchBytes_ok (s : State) (bs : List Byte) :
    s.fetchBytes = .ok bs ↔ s.textLeft ≠ 0 ∧ s.textInSpace = true ∧ s.textCanonical = true ∧
      s.codeBytes (min s.textLeft maxFetch) = some bs := by
  unfold State.fetchBytes
  by_cases h0 : s.textLeft = 0 <;> cases s.textInSpace <;> cases s.textCanonical <;>
    cases s.codeBytes (min s.textLeft maxFetch) <;> simp [h0]

/-- Every refusal of a fetch, and when it is the one named. -/
theorem State.fetchBytes_error (s : State) (r : Refusal) :
    s.fetchBytes = .error r ↔
      (s.textLeft = 0 ∧ r = .endOfProgram) ∨
      (s.textLeft ≠ 0 ∧ s.textInSpace = false ∧ r = .textCrossesTop) ∨
      (s.textLeft ≠ 0 ∧ s.textInSpace = true ∧ s.textCanonical = false ∧ r = .textNotCanonical) ∨
      (s.textLeft ≠ 0 ∧ s.textInSpace = true ∧ s.textCanonical = true ∧
        s.codeBytes (min s.textLeft maxFetch) = none ∧ r = .textNotFetchable) := by
  unfold State.fetchBytes
  by_cases h0 : s.textLeft = 0 <;> cases s.textInSpace <;> cases s.textCanonical <;>
    cases s.codeBytes (min s.textLeft maxFetch) <;> simp [h0, eq_comm]

/-- The refusals of a meaning. -/
theorem exec_refused (i : Instr) (s : State) (r : Refusal) (h : exec i s = .refused r) :
    r = .notEncodable ∨ r = .deviceMemory ∨ r = .textOverlap := by
  rw [exec_eq_execRotate, execRotate_refused] at h
  obtain ⟨_, h⟩ | ⟨_, _, h⟩ := h
  · exact .inl h
  · obtain ⟨_, _, ⟨h, _⟩ | ⟨h, _⟩⟩ := s.destRefusal_some _ _ h
    · exact .inr (.inl h)
    · exact .inr (.inr h)

/-- The refusals of a step: those of the fetch, those of the decoder and those of a meaning. -/
theorem step_refused (s : State) (r : Refusal) (h : step s = .refused r) :
    s.fetchBytes = .error r ∨ (∃ e, r = .undecodable e) ∨ r = .notEncodable ∨ r = .deviceMemory ∨ r = .textOverlap := by
  unfold step State.fetch at h
  cases hb : s.fetchBytes with
  | error q => simp only [hb, Host.Outcome.refused.injEq] at h; exact .inl (by rw [h])
  | ok bs =>
    cases hd : decode s.mode bs with
    | error e => simp only [hb, hd, Host.Outcome.refused.injEq] at h; exact .inr (.inl ⟨e, h.symm⟩)
    | ok p => simp only [hb, hd] at h; exact .inr (.inr (exec_refused _ _ _ h))

/-- What the fetch refuses the step refuses. -/
theorem step_of_fetchBytes_error (s : State) (r : Refusal) (h : s.fetchBytes = .error r) : step s = .refused r := by
  simp [step, State.fetch, h]

/-- A step is refused as the end of the run exactly when nothing of the text is left. -/
theorem step_endOfProgram (s : State) : step s = .refused .endOfProgram ↔ s.textLeft = 0 := by
  constructor
  · intro h
    have h := step_refused _ _ h
    simp only [s.fetchBytes_error] at h
    simpa using h
  · intro h
    exact step_of_fetchBytes_error _ _ ((s.fetchBytes_error _).mpr (.inl ⟨h, rfl⟩))

/-- What a fetch takes: the bytes at `pc` and their decoding. -/
theorem State.fetch_ok (s : State) (i : Instr) :
    s.fetch = .ok i ↔ ∃ bs r, s.fetchBytes = .ok bs ∧ decode s.mode bs = .ok (i, r) := by
  unfold State.fetch
  cases hb : s.fetchBytes with
  | error e => simp
  | ok bs =>
    cases hd : decode s.mode bs with
    | error e => simp [hd]
    | ok p => simp [hd, Prod.ext_iff]

end Sys2Proof.Machine
end

