-- ==== Sys2Proof/Laws/PerInstr.lean ====
section
/-! SUPPORT. A family of statements with one lemma per constructor of Instr: the row that R85 selects for the columns of an
instruction is that instruction. -/

namespace Sys2Proof.Laws.RowForm

/-- The columns of a row determine the row (`30_encoding.md` R85): building the instruction from its form gives it back. -/
def Statement (i : Instr) : Prop := Instr.ofForm i.form = i

theorem rclRm8One (l : List Legacy) (rm : Rm) : Statement (.rclRm8One l rm) := rfl

theorem rclRm8RexOne (l : List Legacy) (rex : Rex) (rm : Rm) : Statement (.rclRm8RexOne l rex rm) := rfl

theorem rclRm8Cl (l : List Legacy) (rm : Rm) : Statement (.rclRm8Cl l rm) := rfl

theorem rclRm8RexCl (l : List Legacy) (rex : Rex) (rm : Rm) : Statement (.rclRm8RexCl l rex rm) := rfl

theorem rclRm8Imm (l : List Legacy) (rm : Rm) (imm : BitVec 8) : Statement (.rclRm8Imm l rm imm) := rfl

theorem rclRm8RexImm (l : List Legacy) (rex : Rex) (rm : Rm) (imm : BitVec 8) : Statement (.rclRm8RexImm l rex rm imm) := rfl

theorem rclRm16One (l : List Legacy) (rex : Option Rex) (rm : Rm) : Statement (.rclRm16One l rex rm) := rfl

theorem rclRm16Cl (l : List Legacy) (rex : Option Rex) (rm : Rm) : Statement (.rclRm16Cl l rex rm) := rfl

theorem rclRm16Imm (l : List Legacy) (rex : Option Rex) (rm : Rm) (imm : BitVec 8) : Statement (.rclRm16Imm l rex rm imm) := rfl

theorem rclRm32One (l : List Legacy) (rex : Option Rex) (rm : Rm) : Statement (.rclRm32One l rex rm) := rfl

theorem rclRm64One (l : List Legacy) (rex : Rex) (rm : Rm) : Statement (.rclRm64One l rex rm) := rfl

theorem rclRm32Cl (l : List Legacy) (rex : Option Rex) (rm : Rm) : Statement (.rclRm32Cl l rex rm) := rfl

theorem rclRm64Cl (l : List Legacy) (rex : Rex) (rm : Rm) : Statement (.rclRm64Cl l rex rm) := rfl

theorem rclRm32Imm (l : List Legacy) (rex : Option Rex) (rm : Rm) (imm : BitVec 8) : Statement (.rclRm32Imm l rex rm imm) := rfl

theorem rclRm64Imm (l : List Legacy) (rex : Rex) (rm : Rm) (imm : BitVec 8) : Statement (.rclRm64Imm l rex rm imm) := rfl

theorem rcrRm8One (l : List Legacy) (rm : Rm) : Statement (.rcrRm8One l rm) := rfl

theorem rcrRm8RexOne (l : List Legacy) (rex : Rex) (rm : Rm) : Statement (.rcrRm8RexOne l rex rm) := rfl

theorem rcrRm8Cl (l : List Legacy) (rm : Rm) : Statement (.rcrRm8Cl l rm) := rfl

theorem rcrRm8RexCl (l : List Legacy) (rex : Rex) (rm : Rm) : Statement (.rcrRm8RexCl l rex rm) := rfl

theorem rcrRm8Imm (l : List Legacy) (rm : Rm) (imm : BitVec 8) : Statement (.rcrRm8Imm l rm imm) := rfl

theorem rcrRm8RexImm (l : List Legacy) (rex : Rex) (rm : Rm) (imm : BitVec 8) : Statement (.rcrRm8RexImm l rex rm imm) := rfl

theorem rcrRm16One (l : List Legacy) (rex : Option Rex) (rm : Rm) : Statement (.rcrRm16One l rex rm) := rfl

theorem rcrRm16Cl (l : List Legacy) (rex : Option Rex) (rm : Rm) : Statement (.rcrRm16Cl l rex rm) := rfl

theorem rcrRm16Imm (l : List Legacy) (rex : Option Rex) (rm : Rm) (imm : BitVec 8) : Statement (.rcrRm16Imm l rex rm imm) := rfl

theorem rcrRm32One (l : List Legacy) (rex : Option Rex) (rm : Rm) : Statement (.rcrRm32One l rex rm) := rfl

theorem rcrRm64One (l : List Legacy) (rex : Rex) (rm : Rm) : Statement (.rcrRm64One l rex rm) := rfl

theorem rcrRm32Cl (l : List Legacy) (rex : Option Rex) (rm : Rm) : Statement (.rcrRm32Cl l rex rm) := rfl

theorem rcrRm64Cl (l : List Legacy) (rex : Rex) (rm : Rm) : Statement (.rcrRm64Cl l rex rm) := rfl

theorem rcrRm32Imm (l : List Legacy) (rex : Option Rex) (rm : Rm) (imm : BitVec 8) : Statement (.rcrRm32Imm l rex rm imm) := rfl

theorem rcrRm64Imm (l : List Legacy) (rex : Rex) (rm : Rm) (imm : BitVec 8) : Statement (.rcrRm64Imm l rex rm imm) := rfl

theorem rolRm8One (l : List Legacy) (rm : Rm) : Statement (.rolRm8One l rm) := rfl

theorem rolRm8RexOne (l : List Legacy) (rex : Rex) (rm : Rm) : Statement (.rolRm8RexOne l rex rm) := rfl

theorem rolRm8Cl (l : List Legacy) (rm : Rm) : Statement (.rolRm8Cl l rm) := rfl

theorem rolRm8RexCl (l : List Legacy) (rex : Rex) (rm : Rm) : Statement (.rolRm8RexCl l rex rm) := rfl

theorem rolRm8Imm (l : List Legacy) (rm : Rm) (imm : BitVec 8) : Statement (.rolRm8Imm l rm imm) := rfl

theorem rolRm8RexImm (l : List Legacy) (rex : Rex) (rm : Rm) (imm : BitVec 8) : Statement (.rolRm8RexImm l rex rm imm) := rfl

theorem rolRm16One (l : List Legacy) (rex : Option Rex) (rm : Rm) : Statement (.rolRm16One l rex rm) := rfl

theorem rolRm16Cl (l : List Legacy) (rex : Option Rex) (rm : Rm) : Statement (.rolRm16Cl l rex rm) := rfl

theorem rolRm16Imm (l : List Legacy) (rex : Option Rex) (rm : Rm) (imm : BitVec 8) : Statement (.rolRm16Imm l rex rm imm) := rfl

theorem rolRm32One (l : List Legacy) (rex : Option Rex) (rm : Rm) : Statement (.rolRm32One l rex rm) := rfl

theorem rolRm64One (l : List Legacy) (rex : Rex) (rm : Rm) : Statement (.rolRm64One l rex rm) := rfl

theorem rolRm32Cl (l : List Legacy) (rex : Option Rex) (rm : Rm) : Statement (.rolRm32Cl l rex rm) := rfl

theorem rolRm64Cl (l : List Legacy) (rex : Rex) (rm : Rm) : Statement (.rolRm64Cl l rex rm) := rfl

theorem rolRm32Imm (l : List Legacy) (rex : Option Rex) (rm : Rm) (imm : BitVec 8) : Statement (.rolRm32Imm l rex rm imm) := rfl

theorem rolRm64Imm (l : List Legacy) (rex : Rex) (rm : Rm) (imm : BitVec 8) : Statement (.rolRm64Imm l rex rm imm) := rfl

theorem rorRm8One (l : List Legacy) (rm : Rm) : Statement (.rorRm8One l rm) := rfl

theorem rorRm8RexOne (l : List Legacy) (rex : Rex) (rm : Rm) : Statement (.rorRm8RexOne l rex rm) := rfl

theorem rorRm8Cl (l : List Legacy) (rm : Rm) : Statement (.rorRm8Cl l rm) := rfl

theorem rorRm8RexCl (l : List Legacy) (rex : Rex) (rm : Rm) : Statement (.rorRm8RexCl l rex rm) := rfl

theorem rorRm8Imm (l : List Legacy) (rm : Rm) (imm : BitVec 8) : Statement (.rorRm8Imm l rm imm) := rfl

theorem rorRm8RexImm (l : List Legacy) (rex : Rex) (rm : Rm) (imm : BitVec 8) : Statement (.rorRm8RexImm l rex rm imm) := rfl

theorem rorRm16One (l : List Legacy) (rex : Option Rex) (rm : Rm) : Statement (.rorRm16One l rex rm) := rfl

theorem rorRm16Cl (l : List Legacy) (rex : Option Rex) (rm : Rm) : Statement (.rorRm16Cl l rex rm) := rfl

theorem rorRm16Imm (l : List Legacy) (rex : Option Rex) (rm : Rm) (imm : BitVec 8) : Statement (.rorRm16Imm l rex rm imm) := rfl

theorem rorRm32One (l : List Legacy) (rex : Option Rex) (rm : Rm) : Statement (.rorRm32One l rex rm) := rfl

theorem rorRm64One (l : List Legacy) (rex : Rex) (rm : Rm) : Statement (.rorRm64One l rex rm) := rfl

theorem rorRm32Cl (l : List Legacy) (rex : Option Rex) (rm : Rm) : Statement (.rorRm32Cl l rex rm) := rfl

theorem rorRm64Cl (l : List Legacy) (rex : Rex) (rm : Rm) : Statement (.rorRm64Cl l rex rm) := rfl

theorem rorRm32Imm (l : List Legacy) (rex : Option Rex) (rm : Rm) (imm : BitVec 8) : Statement (.rorRm32Imm l rex rm imm) := rfl

theorem rorRm64Imm (l : List Legacy) (rex : Rex) (rm : Rm) (imm : BitVec 8) : Statement (.rorRm64Imm l rex rm imm) := rfl

end Sys2Proof.Laws.RowForm
end

