-- ==== Sys2Proof/Laws/Registers.lean ====
section
/-! SUPPORT. What a write of a register view does, bit by bit. -/

namespace Sys2Proof.Machine

/-- Replacing bits changes those bits and no other. -/
theorem insertBits_getLsbD (old : Word64) (off : Nat) {n : Nat} (v : BitVec n) (j : Nat) (hj : j < 64) :
    (insertBits old off v).getLsbD j = if off ≤ j ∧ j < off + n then v.getLsbD (j - off) else old.getLsbD j := by
  unfold insertBits
  have h64 : j - off < 64 := by omega
  simp only [BitVec.getLsbD_or, BitVec.getLsbD_and, BitVec.getLsbD_not, BitVec.getLsbD_shiftLeft, BitVec.getLsbD_setWidth,
    BitVec.getLsbD_allOnes, hj, h64, decide_true, Bool.true_and]
  by_cases h1 : off ≤ j
  · have h2 : ¬j < off := by omega
    by_cases h3 : j < off + n
    · have h4 : j - off < n := by omega
      simp [-BitVec.getLsbD_eq_getElem, h1, h2, h3, h4]
    · have h4 : ¬j - off < n := by omega
      have h5 : v.getLsbD (j - off) = false := BitVec.getLsbD_of_ge v _ (by omega)
      simp [-BitVec.getLsbD_eq_getElem, h2, h3, h4, h5]
  · have h2 : j < off := by omega
    simp [-BitVec.getLsbD_eq_getElem, h1, h2]

/-- A write of a view changes the register of the view and no other. -/
theorem writeReg_reg_ne (z : OpSize) (c : BitVec 4) (r : Bool) (v : BitVec z.bits) (s : State) (k : BitVec 4)
    (h : k ≠ (viewOf z c r).1) : (writeReg z c r v s).reg k = s.reg k :=
  State.setReg_reg_ne s _ k _ h

/-- What the register of the view holds after the write. -/
theorem writeReg_reg_self (z : OpSize) (c : BitVec 4) (r : Bool) (v : BitVec z.bits) (s : State) :
    (writeReg z c r v s).reg (viewOf z c r).1 =
      mergeReg s.mode z (viewOf z c r).2 (s.reg (viewOf z c r).1) v :=
  State.setReg_reg_self s _ _

/-- Only the byte codes 4 to 7 without a REX prefix name bits 15:8. -/
theorem viewOf_low (z : OpSize) (c : BitVec 4) (r : Bool) (h : z ≠ .b8 ∨ r = true ∨ c.toNat < 4 ∨ 8 ≤ c.toNat) :
    viewOf z c r = (c, 0) := by
  unfold viewOf
  rw [if_neg]
  rintro ⟨h1, h2, h3, h4⟩
  rcases h with h | h | h | h
  · exact h h1
  · simp [h] at h2
  · omega
  · omega

end Sys2Proof.Machine
end

