-- ==== Sys2Proof/Laws/Rotate.lean ====
section
/-! SUPPORT. The four loops are rotations: of DEST for ROL and ROR, of CF and DEST together for RCL and RCR. -/

namespace Sys2Proof.Machine

/-! ## Rotations by index -/

theorem sub_index (w t i : Nat) (hi : i < w) :
    (i + (w - 1) * t) % w = if i < t % w then w - t % w + i else i - t % w := by
  have hw : 0 < w := by omega
  have hr : t % w < w := Nat.mod_lt t hw
  have h1 : (w - 1) * t + t ≡ 0 [MOD w] := by
    have : (w - 1) * t + t = w * t := by
      obtain ⟨v, rfl⟩ : ∃ v, w = v + 1 := ⟨w - 1, by omega⟩
      simp [Nat.add_mul]
    rw [this]
    exact (Nat.modEq_zero_iff_dvd).2 ⟨t, rfl⟩
  have h2 : (w - t % w) + t ≡ 0 [MOD w] := by
    have h3 : (w - t % w) + t ≡ (w - t % w) + t % w [MOD w] := Nat.ModEq.add_left _ (Nat.mod_modEq t w).symm
    have h4 : (w - t % w) + t % w = w := by omega
    rw [h4] at h3
    exact h3.trans ((Nat.modEq_zero_iff_dvd).2 ⟨1, by omega⟩)
  have h5 : (w - 1) * t ≡ w - t % w [MOD w] := Nat.ModEq.add_right_cancel' t (h1.trans h2.symm)
  have h6 : (i + (w - 1) * t) % w = (i + (w - t % w)) % w := Nat.ModEq.add_left i h5
  rw [h6]
  split
  · rw [Nat.mod_eq_of_lt (by omega)]
    omega
  · have : i + (w - t % w) = (i - t % w) + w := by omega
    rw [this, Nat.add_mod_right, Nat.mod_eq_of_lt (by omega)]

theorem add_index (w t i : Nat) (hi : i < w) :
    (i + t) % w = if i < w - t % w then t % w + i else i - (w - t % w) := by
  have hw : 0 < w := by omega
  have hr : t % w < w := Nat.mod_lt t hw
  rw [Nat.add_mod, Nat.mod_eq_of_lt hi]
  split
  · rw [Nat.mod_eq_of_lt (by omega)]
    omega
  · have : i + t % w = (i - (w - t % w)) + w := by omega
    rw [this, Nat.add_mod_right, Nat.mod_eq_of_lt (by omega)]

/-- Bit `i` of a left rotation by `t` is bit `i - t` modulo the width. -/
theorem getLsbD_rotateLeft_mod {w : Nat} (x : BitVec w) (t i : Nat) (hi : i < w) :
    (x.rotateLeft t).getLsbD i = x.getLsbD ((i + (w - 1) * t) % w) := by
  rw [BitVec.getLsbD_rotateLeft, sub_index w t i hi]
  split <;> rename_i h <;> simp [-BitVec.getLsbD_eq_getElem, h, hi]

/-- Bit `i` of a right rotation by `t` is bit `i + t` modulo the width. -/
theorem getLsbD_rotateRight_mod {w : Nat} (x : BitVec w) (t i : Nat) (hi : i < w) :
    (x.rotateRight t).getLsbD i = x.getLsbD ((i + t) % w) := by
  rw [BitVec.getLsbD_rotateRight, add_index w t i hi]
  split <;> rename_i h <;> simp [-BitVec.getLsbD_eq_getElem, h, hi]

/-- A left rotation by one and then by `t` is one by `t + 1`. -/
theorem rotateLeft_succ {w : Nat} (x : BitVec w) (t : Nat) : (x.rotateLeft 1).rotateLeft t = x.rotateLeft (t + 1) := by
  apply BitVec.eq_of_getLsbD_eq
  intro i hi
  have hm : (i + (w - 1) * t) % w < w := Nat.mod_lt _ (by omega)
  rw [getLsbD_rotateLeft_mod _ t i hi, getLsbD_rotateLeft_mod _ 1 _ hm, getLsbD_rotateLeft_mod _ (t + 1) i hi,
    Nat.mod_add_mod]
  congr 2
  ring

/-- A right rotation by one and then by `t` is one by `t + 1`. -/
theorem rotateRight_succ {w : Nat} (x : BitVec w) (t : Nat) :
    (x.rotateRight 1).rotateRight t = x.rotateRight (t + 1) := by
  apply BitVec.eq_of_getLsbD_eq
  intro i hi
  have hm : (i + t) % w < w := Nat.mod_lt _ (by omega)
  rw [getLsbD_rotateRight_mod _ t i hi, getLsbD_rotateRight_mod _ 1 _ hm, getLsbD_rotateRight_mod _ (t + 1) i hi,
    Nat.mod_add_mod]
  congr 2

theorem rotateLeft_zero' {w : Nat} (x : BitVec w) : x.rotateLeft 0 = x := by
  apply BitVec.eq_of_getLsbD_eq
  intro i hi
  rw [getLsbD_rotateLeft_mod x 0 i hi]
  simp [Nat.mod_eq_of_lt hi]

theorem rotateRight_zero' {w : Nat} (x : BitVec w) : x.rotateRight 0 = x := by
  apply BitVec.eq_of_getLsbD_eq
  intro i hi
  rw [getLsbD_rotateRight_mod x 0 i hi]
  simp [Nat.mod_eq_of_lt hi]

/-! ## The loops -/

theorem rolLoop_step {n : Nat} (d : BitVec n) :
    ((d <<< 1) ||| (BitVec.ofBool d.msb).setWidth n) = d.rotateLeft 1 := by
  apply BitVec.eq_of_getLsbD_eq
  intro i hi
  rw [BitVec.getLsbD_rotateLeft]
  rcases Nat.eq_zero_or_pos i with rfl | hp
  · rcases Nat.lt_or_ge 1 n with h | h
    · have : 1 % n = 1 := Nat.mod_eq_of_lt h
      simp [-BitVec.getLsbD_eq_getElem, this, BitVec.msb_eq_getLsbD_last, BitVec.getLsbD_setWidth, BitVec.getLsbD_ofBool, hi]
    · have : n = 1 := by omega
      subst this
      simp [-BitVec.getLsbD_eq_getElem, BitVec.msb_eq_getLsbD_last, BitVec.getLsbD_ofBool]
  · have : 1 % n = 1 := Nat.mod_eq_of_lt (by omega)
    have h0 : ¬i < 1 := by omega
    have h1 : i ≠ 0 := by omega
    simp [-BitVec.getLsbD_eq_getElem, this, h0, hi, BitVec.getLsbD_setWidth, BitVec.getLsbD_ofBool, h1]

/-- The ROL loop is a left rotation. -/
theorem rolLoop_eq {n : Nat} (t : Nat) (d : BitVec n) : rolLoop t d = d.rotateLeft t := by
  induction t generalizing d with
  | zero => exact (rotateLeft_zero' d).symm
  | succ t ih => rw [rolLoop, ih, rolLoop_step, rotateLeft_succ]

theorem rorLoop_step {n : Nat} (d : BitVec n) :
    ((d >>> 1) ||| ((BitVec.ofBool (d.getLsbD 0)).setWidth n <<< (n - 1))) = d.rotateRight 1 := by
  apply BitVec.eq_of_getLsbD_eq
  intro i hi
  rw [BitVec.getLsbD_rotateRight]
  rcases Nat.lt_or_ge 1 n with h | h
  · have h1 : 1 % n = 1 := Nat.mod_eq_of_lt h
    rcases Nat.lt_or_ge i (n - 1) with hl | hl
    · simp [-BitVec.getLsbD_eq_getElem, h1, hl, hi, BitVec.getLsbD_ushiftRight, BitVec.getLsbD_shiftLeft]
    · have : i = n - 1 := by omega
      subst this
      have h2 : 1 + (n - 1) = n := by omega
      have h3 : 0 < n := by omega
      simp [-BitVec.getLsbD_eq_getElem, h1, hi, BitVec.getLsbD_ushiftRight, BitVec.getLsbD_shiftLeft, BitVec.getLsbD_setWidth, BitVec.getLsbD_ofBool,
        h2, h3]
  · have hn : n = 1 := by omega
    subst hn
    have : i = 0 := by omega
    subst this
    simp [-BitVec.getLsbD_eq_getElem, BitVec.getLsbD_ushiftRight, BitVec.getLsbD_ofBool]

/-- The ROR loop is a right rotation. -/
theorem rorLoop_eq {n : Nat} (t : Nat) (d : BitVec n) : rorLoop t d = d.rotateRight t := by
  induction t generalizing d with
  | zero => exact (rotateRight_zero' d).symm
  | succ t ih => rw [rorLoop, ih, rorLoop_step, rotateRight_succ]

theorem rclLoop_step {n : Nat} (d : BitVec n) (c : Bool) (hn : 0 < n) :
    BitVec.cons d.msb ((d <<< 1) ||| (BitVec.ofBool c).setWidth n) = (BitVec.cons c d).rotateLeft 1 := by
  apply BitVec.eq_of_getLsbD_eq
  intro i hi
  have h1 : 1 % (n + 1) = 1 := Nat.mod_eq_of_lt (by omega)
  rw [BitVec.getLsbD_rotateLeft, h1]
  rcases Nat.eq_zero_or_pos i with rfl | hp
  · have : 0 ≠ n := by omega
    simp [-BitVec.getLsbD_eq_getElem, BitVec.getLsbD_cons, BitVec.getLsbD_setWidth, BitVec.getLsbD_ofBool, this, hn]
  · have h0 : ¬i < 1 := by omega
    have h2 : i - 1 ≠ n := by omega
    have h3 : i ≠ 0 := by omega
    rcases Nat.lt_or_ge i n with hl | hl
    · have h4 : i ≠ n := by omega
      simp [-BitVec.getLsbD_eq_getElem, BitVec.getLsbD_cons, BitVec.getLsbD_setWidth, BitVec.getLsbD_ofBool, h0, h2, h3, h4, hl, hi]
    · have h4 : i = n := by omega
      subst h4
      simp [-BitVec.getLsbD_eq_getElem, BitVec.getLsbD_cons, h0, h2, BitVec.msb_eq_getLsbD_last]

/-- The RCL loop is a left rotation of CF and DEST together, CF on top. -/
theorem rclLoop_eq {n : Nat} (t : Nat) (d : BitVec n) (c : Bool) (hn : 0 < n) :
    BitVec.cons (rclLoop t d c).2 (rclLoop t d c).1 = (BitVec.cons c d).rotateLeft t := by
  induction t generalizing d c with
  | zero => exact (rotateLeft_zero' _).symm
  | succ t ih => rw [rclLoop, ih, rclLoop_step d c hn, rotateLeft_succ]

theorem rcrLoop_step {n : Nat} (d : BitVec n) (c : Bool) (hn : 0 < n) :
    BitVec.cons (d.getLsbD 0) ((d >>> 1) ||| ((BitVec.ofBool c).setWidth n <<< (n - 1))) =
      (BitVec.cons c d).rotateRight 1 := by
  apply BitVec.eq_of_getLsbD_eq
  intro i hi
  have h1 : 1 % (n + 1) = 1 := Nat.mod_eq_of_lt (by omega)
  rw [BitVec.getLsbD_rotateRight, h1]
  rcases Nat.lt_or_ge i n with hl | hl
  · have h2 : i ≠ n := by omega
    have h3 : i < n + 1 - 1 := by omega
    rcases Nat.lt_or_ge i (n - 1) with hk | hk
    · have h4 : 1 + i ≠ n := by omega
      simp [-BitVec.getLsbD_eq_getElem, BitVec.getLsbD_cons, BitVec.getLsbD_ushiftRight, BitVec.getLsbD_shiftLeft, h2, h4, hk, hl]
    · have h4 : 1 + i = n := by omega
      have h5 : i - (n - 1) = 0 := by omega
      have h6 : ¬i < n - 1 := by omega
      simp [-BitVec.getLsbD_eq_getElem, BitVec.getLsbD_cons, BitVec.getLsbD_ushiftRight, BitVec.getLsbD_shiftLeft, BitVec.getLsbD_setWidth,
        BitVec.getLsbD_ofBool, h2, h4, h5, h6, hl, hn]
  · have h2 : i = n := by omega
    subst h2
    have h3 : ¬i < i + 1 - 1 := by omega
    have h4 : 0 ≠ i := by omega
    simp [-BitVec.getLsbD_eq_getElem, BitVec.getLsbD_cons, h4]

/-- The RCR loop is a right rotation of CF and DEST together, CF on top. -/
theorem rcrLoop_eq {n : Nat} (t : Nat) (d : BitVec n) (c : Bool) (hn : 0 < n) :
    BitVec.cons (rcrLoop t d c).2 (rcrLoop t d c).1 = (BitVec.cons c d).rotateRight t := by
  induction t generalizing d c with
  | zero => exact (rotateRight_zero' _).symm
  | succ t ih => rw [rcrLoop, ih, rcrLoop_step d c hn, rotateRight_succ]

/-! ## What the functions answer for the flags -/

/-- CF is left alone exactly for masked count 0. -/
theorem rotate_cfNew_none (mn : Mnemonic) (z : OpSize) (d : BitVec z.bits) (c : Bool) (n : BitVec 8) :
    (rotate mn z d c n).cfNew = none ↔ maskedCount z n = 0 := by
  cases mn <;> simp only [rotate, rcl, rcr, rol, ror, cfRule] <;> split <;> simp_all

/-- OF is left alone for masked count 0, undefined above 1 and defined for 1. -/
theorem rotate_ofNew (mn : Mnemonic) (z : OpSize) (d : BitVec z.bits) (c : Bool) (n : BitVec 8) :
    ∃ b, (rotate mn z d c n).ofNew = ofRule (maskedCount z n) b := by
  cases mn <;> exact ⟨_, rfl⟩

end Sys2Proof.Machine
end

