-- ==== Sys2Proof/Laws/Run.lean ====
section
/-! SUPPORT. A run of several steps, one step at a time. -/

namespace Sys2Proof.Machine

theorem run_succ_next_of (M : Host.Core) (k : Nat) (s t : M.State) :
    M.run (k + 1) s = .next t ↔ ∃ u, M.step s = .next u ∧ M.run k u = .next t := by
  rw [Host.Core.run]
  cases M.step s <;> simp

theorem run_succ_fault_of (M : Host.Core) (k : Nat) (s : M.State) (e : M.Fault) :
    M.run (k + 1) s = .fault e ↔ M.step s = .fault e ∨ ∃ u, M.step s = .next u ∧ M.run k u = .fault e := by
  rw [Host.Core.run]
  cases M.step s <;> simp

/-- A run of `k + 1` steps completes exactly when the first step does and the rest completes from there. -/
theorem run_succ_next (k : Nat) (s t : State) :
    core.run (k + 1) s = .next t ↔ ∃ u, step s = .next u ∧ core.run k u = .next t :=
  run_succ_next_of core k s t

/-- A run of `k + 1` steps faults exactly when its first step does, or that completes and the rest faults from there. -/
theorem run_succ_fault (k : Nat) (s : State) (e : Fault) :
    core.run (k + 1) s = .fault e ↔ step s = .fault e ∨ ∃ u, step s = .next u ∧ core.run k u = .fault e :=
  run_succ_fault_of core k s e

end Sys2Proof.Machine
end

