-- ==== Sys2Proof/Tests/Slice0.lean ====
section
/-! SUPPORT. Own tests: one decoding and one step per row, from the examples of the family files `41_rcl.md` to `44_ror.md`; the
smoke test of WellFormed; memory and address steps from `95_test_vectors.md`; a witness for the hypotheses of every statement. -/

namespace Sys2Proof.Tests

open Sys2Proof Sys2Proof.Machine

/-- The next state of an outcome. -/
def nextOf (r : Result) : Option State :=
  match r with
  | .next t => some t
  | _ => none

/-- The fault of an outcome. -/
def faultIn (r : Result) : Option Fault :=
  match r with
  | .fault e => some e
  | _ => none

/-- The refusal of an outcome. -/
def refusalIn (r : Result) : Option Refusal :=
  match r with
  | .refused e => some e
  | _ => none

theorem exists_next (r : Result) (h : (nextOf r).isSome = true) : ∃ t, r = .next t := by
  cases r with
  | next t => exact ⟨t, rfl⟩
  | fault e => exact absurd h (by simp [nextOf])
  | refused e => exact absurd h (by simp [nextOf])

theorem exists_fault (r : Result) (h : (faultIn r).isSome = true) : ∃ e, r = .fault e := by
  cases r with
  | next t => exact absurd h (by simp [faultIn])
  | fault e => exact ⟨e, rfl⟩
  | refused e => exact absurd h (by simp [faultIn])

theorem is_fault (r : Result) (e : Fault) (h : faultIn r = some e) : r = .fault e := by
  cases r with
  | next t => exact absurd h (by simp [faultIn])
  | fault f => rw [Option.some.inj h]
  | refused f => exact absurd h (by simp [faultIn])

/-- A state in `Mode64` at pc 1000H with the registers listed. -/
def stateOf (regs : List (BitVec 4 × Word64)) (cf of : Bool) : State :=
  regs.foldl (fun s p => s.setReg p.1 p.2) { State.reset with pc := 0x1000, cf := cf, of := of }

/-- That state in another mode. -/
def inMode (m : Mode) (s : State) : State := { s with params := { s.params with mode := m } }

/-- A state whose DS segment is as given. -/
def withDs (p : SegParams) (s : State) : State :=
  { s with params := { s.params with segs := { s.params.segs with ds := p } } }

/-- A state with a program text at the given place. -/
def withText (start : Word64) (len : Nat) (s : State) : State :=
  { s with params := { s.params with textStart := start, textLen := len } }

/-! ## Decoding: the example of each row -/

theorem test_decode_rclRm8One : decode .mode64 [0xD0, 0xD4] = .ok (.rclRm8One [] (.reg 4), []) := by decide

theorem test_decode_rclRm8RexOne : decode .mode64 [0x40, 0xD0, 0xD6] = .ok (.rclRm8RexOne [] ⟨false, false, false, false⟩ (.reg 6), []) := by decide

theorem test_decode_rclRm8Cl : decode .mode64 [0xD2, 0xD2] = .ok (.rclRm8Cl [] (.reg 2), []) := by decide

theorem test_decode_rclRm8RexCl : decode .mode64 [0x41, 0xD2, 0xD1] = .ok (.rclRm8RexCl [] ⟨false, false, false, true⟩ (.reg 1), []) := by decide

theorem test_decode_rclRm8Imm : decode .mode64 [0xC0, 0xD0, 0x09] = .ok (.rclRm8Imm [] (.reg 0) 9, []) := by decide

theorem test_decode_rclRm8RexImm : decode .mode64 [0x40, 0xC0, 0xD7, 0x04] = .ok (.rclRm8RexImm [] ⟨false, false, false, false⟩ (.reg 7) 4, []) := by decide

theorem test_decode_rclRm16One : decode .mode64 [0x66, 0xD1, 0xD3] = .ok (.rclRm16One [.opSize] none (.reg 3), []) := by decide

theorem test_decode_rclRm16Cl : decode .mode64 [0x66, 0x41, 0xD3, 0xD2] = .ok (.rclRm16Cl [.opSize] (some ⟨false, false, false, true⟩) (.reg 2), []) := by decide

theorem test_decode_rclRm16Imm : decode .mode64 [0x66, 0xC1, 0xD0, 0x21] = .ok (.rclRm16Imm [.opSize] none (.reg 0) 33, []) := by decide

theorem test_decode_rclRm32One : decode .mode64 [0xD1, 0xD2] = .ok (.rclRm32One [] none (.reg 2), []) := by decide

theorem test_decode_rclRm64One : decode .mode64 [0x48, 0xD1, 0xD3] = .ok (.rclRm64One [] ⟨true, false, false, false⟩ (.reg 3), []) := by decide

theorem test_decode_rclRm32Cl : decode .mode64 [0x41, 0xD3, 0xD3] = .ok (.rclRm32Cl [] (some ⟨false, false, false, true⟩) (.reg 3), []) := by decide

theorem test_decode_rclRm64Cl : decode .mode64 [0x49, 0xD3, 0xD4] = .ok (.rclRm64Cl [] ⟨true, false, false, true⟩ (.reg 4), []) := by decide

theorem test_decode_rclRm32Imm : decode .mode64 [0xC1, 0xD0, 0x20] = .ok (.rclRm32Imm [] none (.reg 0) 32, []) := by decide

theorem test_decode_rclRm64Imm : decode .mode64 [0x48, 0xC1, 0xD0, 0x3F] = .ok (.rclRm64Imm [] ⟨true, false, false, false⟩ (.reg 0) 63, []) := by decide

theorem test_decode_rcrRm8One : decode .mode64 [0xD0, 0xDC] = .ok (.rcrRm8One [] (.reg 4), []) := by decide

theorem test_decode_rcrRm8RexOne : decode .mode64 [0x40, 0xD0, 0xDE] = .ok (.rcrRm8RexOne [] ⟨false, false, false, false⟩ (.reg 6), []) := by decide

theorem test_decode_rcrRm8Cl : decode .mode64 [0xD2, 0xDA] = .ok (.rcrRm8Cl [] (.reg 2), []) := by decide

theorem test_decode_rcrRm8RexCl : decode .mode64 [0x41, 0xD2, 0xD9] = .ok (.rcrRm8RexCl [] ⟨false, false, false, true⟩ (.reg 1), []) := by decide

theorem test_decode_rcrRm8Imm : decode .mode64 [0xC0, 0xD8, 0x09] = .ok (.rcrRm8Imm [] (.reg 0) 9, []) := by decide

theorem test_decode_rcrRm8RexImm : decode .mode64 [0x40, 0xC0, 0xDF, 0x04] = .ok (.rcrRm8RexImm [] ⟨false, false, false, false⟩ (.reg 7) 4, []) := by decide

theorem test_decode_rcrRm16One : decode .mode64 [0x66, 0xD1, 0xDB] = .ok (.rcrRm16One [.opSize] none (.reg 3), []) := by decide

theorem test_decode_rcrRm16Cl : decode .mode64 [0x66, 0x41, 0xD3, 0xDA] = .ok (.rcrRm16Cl [.opSize] (some ⟨false, false, false, true⟩) (.reg 2), []) := by decide

theorem test_decode_rcrRm16Imm : decode .mode64 [0x66, 0xC1, 0xD8, 0x21] = .ok (.rcrRm16Imm [.opSize] none (.reg 0) 33, []) := by decide

theorem test_decode_rcrRm32One : decode .mode64 [0xD1, 0xDA] = .ok (.rcrRm32One [] none (.reg 2), []) := by decide

theorem test_decode_rcrRm64One : decode .mode64 [0x48, 0xD1, 0xDB] = .ok (.rcrRm64One [] ⟨true, false, false, false⟩ (.reg 3), []) := by decide

theorem test_decode_rcrRm32Cl : decode .mode64 [0x41, 0xD3, 0xDB] = .ok (.rcrRm32Cl [] (some ⟨false, false, false, true⟩) (.reg 3), []) := by decide

theorem test_decode_rcrRm64Cl : decode .mode64 [0x49, 0xD3, 0xDC] = .ok (.rcrRm64Cl [] ⟨true, false, false, true⟩ (.reg 4), []) := by decide

theorem test_decode_rcrRm32Imm : decode .mode64 [0xC1, 0xD8, 0x20] = .ok (.rcrRm32Imm [] none (.reg 0) 32, []) := by decide

theorem test_decode_rcrRm64Imm : decode .mode64 [0x48, 0xC1, 0xD8, 0x3F] = .ok (.rcrRm64Imm [] ⟨true, false, false, false⟩ (.reg 0) 63, []) := by decide

theorem test_decode_rolRm8One : decode .mode64 [0xD0, 0xC4] = .ok (.rolRm8One [] (.reg 4), []) := by decide

theorem test_decode_rolRm8RexOne : decode .mode64 [0x40, 0xD0, 0xC6] = .ok (.rolRm8RexOne [] ⟨false, false, false, false⟩ (.reg 6), []) := by decide

theorem test_decode_rolRm8Cl : decode .mode64 [0xD2, 0xC2] = .ok (.rolRm8Cl [] (.reg 2), []) := by decide

theorem test_decode_rolRm8RexCl : decode .mode64 [0x41, 0xD2, 0xC1] = .ok (.rolRm8RexCl [] ⟨false, false, false, true⟩ (.reg 1), []) := by decide

theorem test_decode_rolRm8Imm : decode .mode64 [0xC0, 0xC0, 0x08] = .ok (.rolRm8Imm [] (.reg 0) 8, []) := by decide

theorem test_decode_rolRm8RexImm : decode .mode64 [0x40, 0xC0, 0xC7, 0x04] = .ok (.rolRm8RexImm [] ⟨false, false, false, false⟩ (.reg 7) 4, []) := by decide

theorem test_decode_rolRm16One : decode .mode64 [0x66, 0xD1, 0xC3] = .ok (.rolRm16One [.opSize] none (.reg 3), []) := by decide

theorem test_decode_rolRm16Cl : decode .mode64 [0x66, 0x41, 0xD3, 0xC2] = .ok (.rolRm16Cl [.opSize] (some ⟨false, false, false, true⟩) (.reg 2), []) := by decide

theorem test_decode_rolRm16Imm : decode .mode64 [0x66, 0xC1, 0xC0, 0x08] = .ok (.rolRm16Imm [.opSize] none (.reg 0) 8, []) := by decide

theorem test_decode_rolRm32One : decode .mode64 [0xD1, 0xC2] = .ok (.rolRm32One [] none (.reg 2), []) := by decide

theorem test_decode_rolRm64One : decode .mode64 [0x48, 0xD1, 0xC3] = .ok (.rolRm64One [] ⟨true, false, false, false⟩ (.reg 3), []) := by decide

theorem test_decode_rolRm32Cl : decode .mode64 [0x41, 0xD3, 0xC3] = .ok (.rolRm32Cl [] (some ⟨false, false, false, true⟩) (.reg 3), []) := by decide

theorem test_decode_rolRm64Cl : decode .mode64 [0x49, 0xD3, 0xC4] = .ok (.rolRm64Cl [] ⟨true, false, false, true⟩ (.reg 4), []) := by decide

theorem test_decode_rolRm32Imm : decode .mode64 [0xC1, 0xC0, 0x20] = .ok (.rolRm32Imm [] none (.reg 0) 32, []) := by decide

theorem test_decode_rolRm64Imm : decode .mode64 [0x48, 0xC1, 0xC0, 0x3F] = .ok (.rolRm64Imm [] ⟨true, false, false, false⟩ (.reg 0) 63, []) := by decide

theorem test_decode_rorRm8One : decode .mode64 [0xD0, 0xCC] = .ok (.rorRm8One [] (.reg 4), []) := by decide

theorem test_decode_rorRm8RexOne : decode .mode64 [0x40, 0xD0, 0xCE] = .ok (.rorRm8RexOne [] ⟨false, false, false, false⟩ (.reg 6), []) := by decide

theorem test_decode_rorRm8Cl : decode .mode64 [0xD2, 0xCA] = .ok (.rorRm8Cl [] (.reg 2), []) := by decide

theorem test_decode_rorRm8RexCl : decode .mode64 [0x41, 0xD2, 0xC9] = .ok (.rorRm8RexCl [] ⟨false, false, false, true⟩ (.reg 1), []) := by decide

theorem test_decode_rorRm8Imm : decode .mode64 [0xC0, 0xC8, 0x08] = .ok (.rorRm8Imm [] (.reg 0) 8, []) := by decide

theorem test_decode_rorRm8RexImm : decode .mode64 [0x40, 0xC0, 0xCF, 0x04] = .ok (.rorRm8RexImm [] ⟨false, false, false, false⟩ (.reg 7) 4, []) := by decide

theorem test_decode_rorRm16One : decode .mode64 [0x66, 0xD1, 0xCB] = .ok (.rorRm16One [.opSize] none (.reg 3), []) := by decide

theorem test_decode_rorRm16Cl : decode .mode64 [0x66, 0x41, 0xD3, 0xCA] = .ok (.rorRm16Cl [.opSize] (some ⟨false, false, false, true⟩) (.reg 2), []) := by decide

theorem test_decode_rorRm16Imm : decode .mode64 [0x66, 0xC1, 0xC8, 0x08] = .ok (.rorRm16Imm [.opSize] none (.reg 0) 8, []) := by decide

theorem test_decode_rorRm32One : decode .mode64 [0xD1, 0xCA] = .ok (.rorRm32One [] none (.reg 2), []) := by decide

theorem test_decode_rorRm64One : decode .mode64 [0x48, 0xD1, 0xCB] = .ok (.rorRm64One [] ⟨true, false, false, false⟩ (.reg 3), []) := by decide

theorem test_decode_rorRm32Cl : decode .mode64 [0x41, 0xD3, 0xCB] = .ok (.rorRm32Cl [] (some ⟨false, false, false, true⟩) (.reg 3), []) := by decide

theorem test_decode_rorRm64Cl : decode .mode64 [0x49, 0xD3, 0xCC] = .ok (.rorRm64Cl [] ⟨true, false, false, true⟩ (.reg 4), []) := by decide

theorem test_decode_rorRm32Imm : decode .mode64 [0xC1, 0xC8, 0x20] = .ok (.rorRm32Imm [] none (.reg 0) 32, []) := by decide

theorem test_decode_rorRm64Imm : decode .mode64 [0x48, 0xC1, 0xC8, 0x3F] = .ok (.rorRm64Imm [] ⟨true, false, false, false⟩ (.reg 0) 63, []) := by decide

/-! ## One step: the example of each row -/

theorem test_run_rclRm8One :
    (nextOf (exec (.rclRm8One [] (.reg 4))
    (stateOf [(0, 0x1122334455669688)] true false))).map (fun t => (t.reg 0, t.cf, t.of, t.pc)) =
    some (0x1122334455662d88, true, true, 0x1002) := by decide

theorem test_run_rclRm8RexOne :
    (nextOf (exec (.rclRm8RexOne [] ⟨false, false, false, false⟩ (.reg 6))
    (stateOf [(6, 0x1122334455667796)] true false))).map (fun t => (t.reg 6, t.cf, t.of, t.pc)) =
    some (0x112233445566772d, true, true, 0x1003) := by decide

theorem test_run_rclRm8Cl :
    (nextOf (exec (.rclRm8Cl [] (.reg 2))
    (stateOf [(2, 0x1122334455667796), (1, 0xff24)] false false))).map (fun t => (t.reg 2, t.cf, t.pc)) =
    some (0x1122334455667764, true, 0x1002) := by decide

theorem test_run_rclRm8RexCl :
    (nextOf (exec (.rclRm8RexCl [] ⟨false, false, false, true⟩ (.reg 1))
    (stateOf [(9, 0x1122334455667796), (1, 0xff0a)] true false))).map (fun t => (t.reg 9, t.cf, t.pc)) =
    some (0x112233445566772d, true, 0x1003) := by decide

theorem test_run_rclRm8Imm :
    (nextOf (exec (.rclRm8Imm [] (.reg 0) 9)
    (stateOf [(0, 0x1122334455667796)] true false))).map (fun t => (t.reg 0, t.cf, t.pc)) =
    some (0x1122334455667796, true, 0x1003) := by decide

theorem test_run_rclRm8RexImm :
    (nextOf (exec (.rclRm8RexImm [] ⟨false, false, false, false⟩ (.reg 7) 4)
    (stateOf [(7, 0x1122334455667796)] false false))).map (fun t => (t.reg 7, t.cf, t.pc)) =
    some (0x1122334455667764, true, 0x1004) := by decide

theorem test_run_rclRm16One :
    (nextOf (exec (.rclRm16One [.opSize] none (.reg 3))
    (stateOf [(3, 0x1122334455668001)] false false))).map (fun t => (t.reg 3, t.cf, t.of, t.pc)) =
    some (0x1122334455660002, true, true, 0x1003) := by decide

theorem test_run_rclRm16Cl :
    (nextOf (exec (.rclRm16Cl [.opSize] (some ⟨false, false, false, true⟩) (.reg 2))
    (stateOf [(10, 0x1122334455661234), (1, 0xff14)] true false))).map (fun t => (t.reg 10, t.cf, t.pc)) =
    some (0x11223344556691a4, false, 0x1004) := by decide

theorem test_run_rclRm16Imm :
    (nextOf (exec (.rclRm16Imm [.opSize] none (.reg 0) 33)
    (stateOf [(0, 0x1122334455661234)] true false))).map (fun t => (t.reg 0, t.cf, t.of, t.pc)) =
    some (0x1122334455662469, false, false, 0x1004) := by decide

theorem test_run_rclRm32One :
    (nextOf (exec (.rclRm32One [] none (.reg 2))
    (stateOf [(2, 0x1122334480000001)] true false))).map (fun t => (t.reg 2, t.cf, t.of, t.pc)) =
    some (0x3, true, true, 0x1002) := by decide

theorem test_run_rclRm64One :
    (nextOf (exec (.rclRm64One [] ⟨true, false, false, false⟩ (.reg 3))
    (stateOf [(3, 0x8000000000000001)] false false))).map (fun t => (t.reg 3, t.cf, t.of, t.pc)) =
    some (0x2, true, true, 0x1003) := by decide

theorem test_run_rclRm32Cl :
    (nextOf (exec (.rclRm32Cl [] (some ⟨false, false, false, true⟩) (.reg 3))
    (stateOf [(11, 0x1122334412345678), (1, 0xff24)] false false))).map (fun t => (t.reg 11, t.cf, t.pc)) =
    some (0x23456780, true, 0x1003) := by decide

theorem test_run_rclRm64Cl :
    (nextOf (exec (.rclRm64Cl [] ⟨true, false, false, true⟩ (.reg 4))
    (stateOf [(12, 0x123456789abcdef), (1, 0xff44)] true false))).map (fun t => (t.reg 12, t.cf, t.pc)) =
    some (0x123456789abcdef8, false, 0x1003) := by decide

theorem test_run_rclRm32Imm :
    (nextOf (exec (.rclRm32Imm [] none (.reg 0) 32)
    (stateOf [(0, 0x1122334412345678)] true true))).map (fun t => (t.reg 0, t.cf, t.of, t.pc)) =
    some (0x12345678, true, true, 0x1003) := by decide

set_option maxRecDepth 4096 in
theorem test_run_rclRm64Imm :
    (nextOf (exec (.rclRm64Imm [] ⟨true, false, false, false⟩ (.reg 0) 63)
    (stateOf [(0, 0x123456789abcdef)] true false))).map (fun t => (t.reg 0, t.cf, t.pc)) =
    some (0xc048d159e26af37b, true, 0x1004) := by decide

theorem test_run_rcrRm8One :
    (nextOf (exec (.rcrRm8One [] (.reg 4))
    (stateOf [(0, 0x1122334455669688)] true false))).map (fun t => (t.reg 0, t.cf, t.of, t.pc)) =
    some (0x112233445566cb88, false, false, 0x1002) := by decide

theorem test_run_rcrRm8RexOne :
    (nextOf (exec (.rcrRm8RexOne [] ⟨false, false, false, false⟩ (.reg 6))
    (stateOf [(6, 0x1122334455667796)] true false))).map (fun t => (t.reg 6, t.cf, t.of, t.pc)) =
    some (0x11223344556677cb, false, false, 0x1003) := by decide

theorem test_run_rcrRm8Cl :
    (nextOf (exec (.rcrRm8Cl [] (.reg 2))
    (stateOf [(2, 0x1122334455667796), (1, 0xff24)] false false))).map (fun t => (t.reg 2, t.cf, t.pc)) =
    some (0x11223344556677c9, false, 0x1002) := by decide

theorem test_run_rcrRm8RexCl :
    (nextOf (exec (.rcrRm8RexCl [] ⟨false, false, false, true⟩ (.reg 1))
    (stateOf [(9, 0x1122334455667796), (1, 0xff0a)] true false))).map (fun t => (t.reg 9, t.cf, t.pc)) =
    some (0x11223344556677cb, false, 0x1003) := by decide

theorem test_run_rcrRm8Imm :
    (nextOf (exec (.rcrRm8Imm [] (.reg 0) 9)
    (stateOf [(0, 0x1122334455667796)] true false))).map (fun t => (t.reg 0, t.cf, t.pc)) =
    some (0x1122334455667796, true, 0x1003) := by decide

theorem test_run_rcrRm8RexImm :
    (nextOf (exec (.rcrRm8RexImm [] ⟨false, false, false, false⟩ (.reg 7) 4)
    (stateOf [(7, 0x1122334455667796)] false false))).map (fun t => (t.reg 7, t.cf, t.pc)) =
    some (0x11223344556677c9, false, 0x1004) := by decide

theorem test_run_rcrRm16One :
    (nextOf (exec (.rcrRm16One [.opSize] none (.reg 3))
    (stateOf [(3, 0x1122334455668001)] false false))).map (fun t => (t.reg 3, t.cf, t.of, t.pc)) =
    some (0x1122334455664000, true, true, 0x1003) := by decide

theorem test_run_rcrRm16Cl :
    (nextOf (exec (.rcrRm16Cl [.opSize] (some ⟨false, false, false, true⟩) (.reg 2))
    (stateOf [(10, 0x1122334455661234), (1, 0xff14)] true false))).map (fun t => (t.reg 10, t.cf, t.pc)) =
    some (0x1122334455662246, true, 0x1004) := by decide

theorem test_run_rcrRm16Imm :
    (nextOf (exec (.rcrRm16Imm [.opSize] none (.reg 0) 33)
    (stateOf [(0, 0x1122334455661234)] true false))).map (fun t => (t.reg 0, t.cf, t.of, t.pc)) =
    some (0x112233445566891a, false, true, 0x1004) := by decide

theorem test_run_rcrRm32One :
    (nextOf (exec (.rcrRm32One [] none (.reg 2))
    (stateOf [(2, 0x1122334480000001)] true false))).map (fun t => (t.reg 2, t.cf, t.of, t.pc)) =
    some (0xc0000000, true, false, 0x1002) := by decide

theorem test_run_rcrRm64One :
    (nextOf (exec (.rcrRm64One [] ⟨true, false, false, false⟩ (.reg 3))
    (stateOf [(3, 0x8000000000000001)] false false))).map (fun t => (t.reg 3, t.cf, t.of, t.pc)) =
    some (0x4000000000000000, true, true, 0x1003) := by decide

theorem test_run_rcrRm32Cl :
    (nextOf (exec (.rcrRm32Cl [] (some ⟨false, false, false, true⟩) (.reg 3))
    (stateOf [(11, 0x1122334412345678), (1, 0xff24)] false false))).map (fun t => (t.reg 11, t.cf, t.pc)) =
    some (0x1234567, true, 0x1003) := by decide

theorem test_run_rcrRm64Cl :
    (nextOf (exec (.rcrRm64Cl [] ⟨true, false, false, true⟩ (.reg 4))
    (stateOf [(12, 0x123456789abcdef), (1, 0xff44)] true false))).map (fun t => (t.reg 12, t.cf, t.pc)) =
    some (0xf0123456789abcde, true, 0x1003) := by decide

theorem test_run_rcrRm32Imm :
    (nextOf (exec (.rcrRm32Imm [] none (.reg 0) 32)
    (stateOf [(0, 0x1122334412345678)] true true))).map (fun t => (t.reg 0, t.cf, t.of, t.pc)) =
    some (0x12345678, true, true, 0x1003) := by decide

set_option maxRecDepth 4096 in
theorem test_run_rcrRm64Imm :
    (nextOf (exec (.rcrRm64Imm [] ⟨true, false, false, false⟩ (.reg 0) 63)
    (stateOf [(0, 0x123456789abcdef)] true false))).map (fun t => (t.reg 0, t.cf, t.pc)) =
    some (0x48d159e26af37be, false, 0x1004) := by decide

theorem test_run_rolRm8One :
    (nextOf (exec (.rolRm8One [] (.reg 4))
    (stateOf [(0, 0x1122334455669688)] true false))).map (fun t => (t.reg 0, t.cf, t.of, t.pc)) =
    some (0x1122334455662d88, true, true, 0x1002) := by decide

theorem test_run_rolRm8RexOne :
    (nextOf (exec (.rolRm8RexOne [] ⟨false, false, false, false⟩ (.reg 6))
    (stateOf [(6, 0x1122334455667796)] true false))).map (fun t => (t.reg 6, t.cf, t.of, t.pc)) =
    some (0x112233445566772d, true, true, 0x1003) := by decide

theorem test_run_rolRm8Cl :
    (nextOf (exec (.rolRm8Cl [] (.reg 2))
    (stateOf [(2, 0x1122334455667796), (1, 0xff24)] false false))).map (fun t => (t.reg 2, t.cf, t.pc)) =
    some (0x1122334455667769, true, 0x1002) := by decide

theorem test_run_rolRm8RexCl :
    (nextOf (exec (.rolRm8RexCl [] ⟨false, false, false, true⟩ (.reg 1))
    (stateOf [(9, 0x1122334455667796), (1, 0xff0a)] true false))).map (fun t => (t.reg 9, t.cf, t.pc)) =
    some (0x112233445566775a, false, 0x1003) := by decide

theorem test_run_rolRm8Imm :
    (nextOf (exec (.rolRm8Imm [] (.reg 0) 8)
    (stateOf [(0, 0x1122334455667796)] true false))).map (fun t => (t.reg 0, t.cf, t.pc)) =
    some (0x1122334455667796, false, 0x1003) := by decide

theorem test_run_rolRm8RexImm :
    (nextOf (exec (.rolRm8RexImm [] ⟨false, false, false, false⟩ (.reg 7) 4)
    (stateOf [(7, 0x1122334455667796)] false false))).map (fun t => (t.reg 7, t.cf, t.pc)) =
    some (0x1122334455667769, true, 0x1004) := by decide

theorem test_run_rolRm16One :
    (nextOf (exec (.rolRm16One [.opSize] none (.reg 3))
    (stateOf [(3, 0x1122334455668001)] false false))).map (fun t => (t.reg 3, t.cf, t.of, t.pc)) =
    some (0x1122334455660003, true, true, 0x1003) := by decide

theorem test_run_rolRm16Cl :
    (nextOf (exec (.rolRm16Cl [.opSize] (some ⟨false, false, false, true⟩) (.reg 2))
    (stateOf [(10, 0x1122334455661234), (1, 0xff14)] true false))).map (fun t => (t.reg 10, t.cf, t.pc)) =
    some (0x1122334455662341, true, 0x1004) := by decide

theorem test_run_rolRm16Imm :
    (nextOf (exec (.rolRm16Imm [.opSize] none (.reg 0) 8)
    (stateOf [(0, 0x1122334455661234)] true false))).map (fun t => (t.reg 0, t.cf, t.pc)) =
    some (0x1122334455663412, false, 0x1004) := by decide

theorem test_run_rolRm32One :
    (nextOf (exec (.rolRm32One [] none (.reg 2))
    (stateOf [(2, 0x1122334480000001)] true false))).map (fun t => (t.reg 2, t.cf, t.of, t.pc)) =
    some (0x3, true, true, 0x1002) := by decide

theorem test_run_rolRm64One :
    (nextOf (exec (.rolRm64One [] ⟨true, false, false, false⟩ (.reg 3))
    (stateOf [(3, 0x8000000000000001)] false false))).map (fun t => (t.reg 3, t.cf, t.of, t.pc)) =
    some (0x3, true, true, 0x1003) := by decide

theorem test_run_rolRm32Cl :
    (nextOf (exec (.rolRm32Cl [] (some ⟨false, false, false, true⟩) (.reg 3))
    (stateOf [(11, 0x1122334412345678), (1, 0xff24)] false false))).map (fun t => (t.reg 11, t.cf, t.pc)) =
    some (0x23456781, true, 0x1003) := by decide

theorem test_run_rolRm64Cl :
    (nextOf (exec (.rolRm64Cl [] ⟨true, false, false, true⟩ (.reg 4))
    (stateOf [(12, 0x123456789abcdef), (1, 0xff44)] true false))).map (fun t => (t.reg 12, t.cf, t.pc)) =
    some (0x123456789abcdef0, false, 0x1003) := by decide

theorem test_run_rolRm32Imm :
    (nextOf (exec (.rolRm32Imm [] none (.reg 0) 32)
    (stateOf [(0, 0x1122334412345678)] true true))).map (fun t => (t.reg 0, t.cf, t.of, t.pc)) =
    some (0x12345678, true, true, 0x1003) := by decide

set_option maxRecDepth 4096 in
theorem test_run_rolRm64Imm :
    (nextOf (exec (.rolRm64Imm [] ⟨true, false, false, false⟩ (.reg 0) 63)
    (stateOf [(0, 0x123456789abcdef)] true false))).map (fun t => (t.reg 0, t.cf, t.pc)) =
    some (0x8091a2b3c4d5e6f7, true, 0x1004) := by decide

theorem test_run_rorRm8One :
    (nextOf (exec (.rorRm8One [] (.reg 4))
    (stateOf [(0, 0x1122334455669688)] true false))).map (fun t => (t.reg 0, t.cf, t.of, t.pc)) =
    some (0x1122334455664b88, false, true, 0x1002) := by decide

theorem test_run_rorRm8RexOne :
    (nextOf (exec (.rorRm8RexOne [] ⟨false, false, false, false⟩ (.reg 6))
    (stateOf [(6, 0x1122334455667796)] true false))).map (fun t => (t.reg 6, t.cf, t.of, t.pc)) =
    some (0x112233445566774b, false, true, 0x1003) := by decide

theorem test_run_rorRm8Cl :
    (nextOf (exec (.rorRm8Cl [] (.reg 2))
    (stateOf [(2, 0x1122334455667796), (1, 0xff24)] false false))).map (fun t => (t.reg 2, t.cf, t.pc)) =
    some (0x1122334455667769, false, 0x1002) := by decide

theorem test_run_rorRm8RexCl :
    (nextOf (exec (.rorRm8RexCl [] ⟨false, false, false, true⟩ (.reg 1))
    (stateOf [(9, 0x1122334455667796), (1, 0xff0a)] true false))).map (fun t => (t.reg 9, t.cf, t.pc)) =
    some (0x11223344556677a5, true, 0x1003) := by decide

theorem test_run_rorRm8Imm :
    (nextOf (exec (.rorRm8Imm [] (.reg 0) 8)
    (stateOf [(0, 0x1122334455667796)] true false))).map (fun t => (t.reg 0, t.cf, t.pc)) =
    some (0x1122334455667796, true, 0x1003) := by decide

theorem test_run_rorRm8RexImm :
    (nextOf (exec (.rorRm8RexImm [] ⟨false, false, false, false⟩ (.reg 7) 4)
    (stateOf [(7, 0x1122334455667796)] false false))).map (fun t => (t.reg 7, t.cf, t.pc)) =
    some (0x1122334455667769, false, 0x1004) := by decide

theorem test_run_rorRm16One :
    (nextOf (exec (.rorRm16One [.opSize] none (.reg 3))
    (stateOf [(3, 0x1122334455668001)] false false))).map (fun t => (t.reg 3, t.cf, t.of, t.pc)) =
    some (0x112233445566c000, true, false, 0x1003) := by decide

theorem test_run_rorRm16Cl :
    (nextOf (exec (.rorRm16Cl [.opSize] (some ⟨false, false, false, true⟩) (.reg 2))
    (stateOf [(10, 0x1122334455661234), (1, 0xff14)] true false))).map (fun t => (t.reg 10, t.cf, t.pc)) =
    some (0x1122334455664123, false, 0x1004) := by decide

theorem test_run_rorRm16Imm :
    (nextOf (exec (.rorRm16Imm [.opSize] none (.reg 0) 8)
    (stateOf [(0, 0x1122334455661234)] true false))).map (fun t => (t.reg 0, t.cf, t.pc)) =
    some (0x1122334455663412, false, 0x1004) := by decide

theorem test_run_rorRm32One :
    (nextOf (exec (.rorRm32One [] none (.reg 2))
    (stateOf [(2, 0x1122334480000001)] true false))).map (fun t => (t.reg 2, t.cf, t.of, t.pc)) =
    some (0xc0000000, true, false, 0x1002) := by decide

theorem test_run_rorRm64One :
    (nextOf (exec (.rorRm64One [] ⟨true, false, false, false⟩ (.reg 3))
    (stateOf [(3, 0x8000000000000001)] false false))).map (fun t => (t.reg 3, t.cf, t.of, t.pc)) =
    some (0xc000000000000000, true, false, 0x1003) := by decide

theorem test_run_rorRm32Cl :
    (nextOf (exec (.rorRm32Cl [] (some ⟨false, false, false, true⟩) (.reg 3))
    (stateOf [(11, 0x1122334412345678), (1, 0xff24)] false false))).map (fun t => (t.reg 11, t.cf, t.pc)) =
    some (0x81234567, true, 0x1003) := by decide

theorem test_run_rorRm64Cl :
    (nextOf (exec (.rorRm64Cl [] ⟨true, false, false, true⟩ (.reg 4))
    (stateOf [(12, 0x123456789abcdef), (1, 0xff44)] true false))).map (fun t => (t.reg 12, t.cf, t.pc)) =
    some (0xf0123456789abcde, true, 0x1003) := by decide

theorem test_run_rorRm32Imm :
    (nextOf (exec (.rorRm32Imm [] none (.reg 0) 32)
    (stateOf [(0, 0x1122334412345678)] true true))).map (fun t => (t.reg 0, t.cf, t.of, t.pc)) =
    some (0x12345678, true, true, 0x1003) := by decide

set_option maxRecDepth 4096 in
theorem test_run_rorRm64Imm :
    (nextOf (exec (.rorRm64Imm [] ⟨true, false, false, false⟩ (.reg 0) 63)
    (stateOf [(0, 0x123456789abcdef)] true false))).map (fun t => (t.reg 0, t.cf, t.pc)) =
    some (0x2468acf13579bde, false, 0x1004) := by decide

/-! ## WellFormed: one ill-formed term per check, refused by that check -/

theorem test_wf_rep : legacyOk .mode64 [.rep] = false ∧ legacyOk .real16 [.repne] = false := by decide

theorem test_wf_repeat : legacyOk .mode64 [.opSize, .addrSize, .opSize] = false := by decide

theorem test_wf_two_segments : legacyOk .prot32 [.seg .es, .seg .fs] = false := by decide

theorem test_wf_ignored_segment : legacyOk .mode64 [.seg .es] = false ∧ legacyOk .prot32 [.seg .es] = true := by decide

theorem test_wf_legacy : (Instr.rolRm8One [.rep] (.reg 0)).wf .mode64 = false := by decide

theorem test_wf_rexMode : (Instr.rolRm8RexOne [] ⟨false, false, false, false⟩ (.reg 0)).wf .prot32 = false ∧
    rexModeOk .prot32 (Instr.rolRm8RexOne [] ⟨false, false, false, false⟩ (.reg 0)).form = false := by decide

theorem test_wf_rexSize : (Instr.rolRm64One [] ⟨false, false, false, false⟩ (.reg 0)).wf .mode64 = false ∧
    rexSizeOk (Instr.rolRm64One [] ⟨false, false, false, false⟩ (.reg 0)).form = false ∧
    rexSizeOk (Instr.rolRm32One [] (some ⟨true, false, false, false⟩) (.reg 0)).form = false := by decide

theorem test_wf_opSize : (Instr.rolRm16One [] none (.reg 0)).wf .mode64 = false ∧
    opSizeOk .mode64 (Instr.rolRm16One [] none (.reg 0)).form = false ∧
    opSizeOk .real16 (Instr.rolRm32One [] none (.reg 0)).form = false := by decide

theorem test_wf_addrForm : (Instr.rolRm8One [] (.mem16 0 .d0)).wf .mode64 = false ∧
    addrFormOk .mode64 (Instr.rolRm8One [] (.mem16 0 .d0)).form = false ∧
    addrFormOk .prot32 (Instr.rolRm8One [.addrSize] (.mem 0 .d0)).form = false := by decide

theorem test_wf_rm : (Instr.rolRm8One [] (.mem 4 .d0)).wf .mode64 = false ∧ rmOk (.mem 4 (.d8 0)) = false ∧
    rmOk (.mem 5 .d0) = false ∧ rmOk (.memSib 0 0 5 .d0) = false ∧ rmOk (.mem16 6 .d0) = false := by decide

/-! ## Refused bytes (`30_encoding.md` R63, R64, R66, R88, R92) -/

theorem test_refuse_shift : decode .mode64 [0xD0, 0xE0] = .error .shiftGroup := by decide

theorem test_refuse_not_a_rotate : decode .prot32 [0x48, 0xD1, 0xC0] = .error .notARotate ∧
    decode .mode64 [0x48, 0x66, 0xD1, 0xC0] = .error .notARotate := by decide

theorem test_refuse_prefixes : decode .mode64 [0xF3, 0xD1, 0xC0] = .error .repPrefix ∧
    decode .mode64 [0x66, 0x66, 0xD1, 0xC0] = .error .repeatedPrefix ∧
    decode .mode64 [0x2E, 0xD1, 0x00] = .error .ignoredSegIn64 ∧
    decode .prot32 [0x2E, 0x64, 0xD1, 0x00] = .error .twoSegOverrides ∧
    decode .mode64 [0xC1, 0xC0] = .error .truncated := by decide

/-! ## Steps on memory (`95_test_vectors.md` P2, P5, P6, P7) and faults -/

theorem test_table_word : decodeTableWord 16 0xD010 = some (.rclRm8One [] (.mem 0 .d0)) ∧
    decodeTableWord 24 0x07C1C0 = some (.rolRm32Imm [] none (.reg 0) 7) := by decide

theorem test_first_step : (nextOf (step (State.reset.withFetchWord 16 0xD0C0))).map (fun t => (t.pc, t.cf, t.of)) =
    some (0xFFF2, false, false) := by decide

theorem test_memory_rol32 : (nextOf (exec (.rolRm32Imm [] none (.mem 3 .d0) 8)
    ((stateOf [(3, 0x2000)] true false).setMem [(0x2000, 0x81), (0x2001, 0xC3), (0x2002, 0x5A), (0x2003, 0xF0)]))).map
      (fun t => (t.mem, t.cf)) =
    some ([(0x2000, 0xF0), (0x2001, 0x81), (0x2002, 0xC3), (0x2003, 0x5A)], false) := by decide

theorem test_memory_rcr16 : (nextOf (exec (.rcrRm16One [.opSize] none (.mem 3 (.d8 2)))
    ((stateOf [(3, 0x2000)] false true).setMem [(0x2002, 0xC3), (0x2003, 0x5A)]))).map
      (fun t => (t.mem, t.cf, t.of)) = some ([(0x2002, 0x61), (0x2003, 0x2D)], true, false) := by decide

theorem test_stack_edge : faultIn (exec (.rorRm64Imm [] ⟨true, false, false, false⟩ (.memSib 0 4 4 (.d8 0x0C)) 0x3F)
    (stateOf [(4, 0x00007FFFFFFFFFF0)] false false)) = some (.ss (some 0)) := by decide

theorem test_locked : faultIn (exec (.rolRm32One [.lock] none (.mem 3 .d0)) (stateOf [(3, 0x2000)] false false)) =
    some .ud := by decide

theorem test_rip_relative : effectiveAddress (Instr.rolRm8Imm [] (.memDisp32 0x10) 3).form (stateOf [] false false) =
    0x1017 := by decide

theorem test_real_wrap : effectiveAddress (Instr.rolRm8One [] (.mem16 0 .d0)).form
    (inMode .real16 (stateOf [(3, 0xFFFF), (6, 2)] false false)) = 1 := by decide

/-- `ROR RCX, CL` (`40_rotate_common.md` R112): the old CL, 4, is the count. -/
theorem test_alias_cl : (nextOf (exec (.rorRm64Cl [] ⟨true, false, false, false⟩ (.reg 1))
    (stateOf [(1, 0x1204)] false false))).map (fun t => (t.reg 1, t.cf)) = some (0x4000000000000120, false) := by decide

/-! ## A witness for the hypotheses of each statement -/

/-- The longest spelling: four prefixes, REX, SIB, disp32 and imm8. -/
def longest : Instr :=
  .rolRm16Imm [.opSize, .addrSize, .seg .fs, .lock] (some ⟨false, true, true, true⟩) (.memSib 3 4 5 (.d32 0x80000000)) 0xFF

theorem witness_DecodeEncode : longest.wf .mode64 = true ∧ (Instr.rolRm16One [] none (.reg 0)).wf .real16 = true ∧
    (Instr.rorRm8Imm [.seg .cs] (.mem16Abs 0xFFFF) 0).wf .v86 = true := by decide

theorem witness_EncodeDecode :
    decode .mode64 [0x64, 0x48, 0xC1, 0x4C, 0x24, 0x08, 0x3F, 0x90] =
      .ok (.rorRm64Imm [.seg .fs] ⟨true, false, false, false⟩ (.memSib 0 4 4 (.d8 8)) 0x3F, [0x90]) := by decide

theorem witness_InstructionLength : longest.wf .mode64 = true ∧ (encode longest).length = 13 ∧
    (Instr.rolRm8One [] (.reg 0)).wf .mode64 = true ∧ (encode (.rolRm8One [] (.reg 0))).length = 2 := by decide

theorem witness_ShiftGroupRefused : legacyOk .mode64 [.opSize] = true ∧
    (0xD3 : Byte).toNat ∈ [0xC0, 0xC1, 0xD0, 0xD1, 0xD2, 0xD3] ∧ 4 ≤ (0xE0 : Byte).toNat / 8 % 8 ∧
    4 ≤ (0x3F : Byte).toNat / 8 % 8 := by decide

theorem witness_NotARotateRefused : legacyOk .prot32 [.seg .es] = true ∧ legacyOk .mode64 [] = true ∧
    (0x40 : Byte).toNat ∉ [0xC0, 0xC1, 0xD0, 0xD1, 0xD2, 0xD3] ∧
    (0x40 : Byte).toNat ∉ [0x26, 0x2E, 0x36, 0x3E, 0x64, 0x65, 0x66, 0x67, 0xF0, 0xF2, 0xF3] ∧
    (0xD4 : Byte).toNat ∉ [0xC0, 0xC1, 0xD0, 0xD1, 0xD2, 0xD3] ∧ (0xD4 : Byte).toNat / 16 ≠ 4 ∧
    (0x66 : Byte).toNat ∉ [0xC0, 0xC1, 0xD0, 0xD1, 0xD2, 0xD3] := by decide

theorem witness_PrefixesRefused : legacyOk .mode64 [.opSize, .rep] = false ∧ Legacy.rep ∈ [Legacy.opSize, .rep] ∧
    legacyOk .mode64 [.seg .ss] = false := by decide

theorem witness_NotEncodableOutside64 : (inMode .prot32 State.reset).mode ≠ .mode64 ∧
    (Instr.rclRm8RexOne [] ⟨false, false, false, false⟩ (.reg 0)).form.rex.isSome = true ∧
    (Instr.rclRm64One [] ⟨true, false, false, false⟩ (.reg 0)).form.size = .b64 := by decide

/-- `ROL AL, 1` placed as the first instruction after reset. -/
def oneRol : State := State.reset.withFetchWord 16 0xD0C0

/-- `LOCK ROL AL, 1` placed as the first instruction after reset. -/
def oneLocked : State := State.reset.withFetchWord 24 0xC0F0D0

theorem witness_StepKeepsInv : oneRol.Inv ∧ ∃ t, step oneRol = .next t :=
  ⟨⟨by decide, by decide⟩, exists_next _ (by decide)⟩

theorem witness_RunKeepsText : (∃ t, Reaches 1 oneRol t) ∧ 1 < oneRol.params.textLen :=
  ⟨exists_next _ (by decide), by decide⟩

theorem sameButOf_setOf (s : State) (b : Bool) : sameButOf s (s.setOf b) := rfl

theorem sameButOf_drawOf (s : State) : sameButOf s s.drawOf := rfl

theorem witness_OfNeverPropagates : sameButOf oneRol (oneRol.setOf true) ∧ (∃ t, Reaches 1 oneRol t) ∧
    sameButOf oneLocked oneLocked.drawOf ∧ ∃ e, core.run 1 oneLocked = .fault e :=
  ⟨sameButOf_setOf _ _, exists_next _ (by decide), sameButOf_drawOf _, exists_fault _ (by decide)⟩

theorem witness_StepRunsDecoded : oneRol.fetchBytes = .ok [0xD0, 0xC0] ∧
    decode oneRol.mode [0xD0, 0xC0] = .ok (.rolRm8One [] (.reg 0), []) := by decide

theorem witness_StepRunsEncoded : (Instr.rolRm8One [] (.reg 0)).wf oneRol.mode = true ∧ oneRol.params.paging = none ∧
    oneRol.textInSpace = true ∧ oneRol.textCanonical = true ∧ (encode (.rolRm8One [] (.reg 0))).length ≤ oneRol.textLeft ∧
    ∀ k, k < (encode (.rolRm8One [] (.reg 0))).length →
      (encode (.rolRm8One [] (.reg 0)))[k]? = some (oneRol.mem.read (oneRol.linear .cs (oneRol.pcPlus k)).toNat) := by
  decide

/-- A text that fills the code space of real-address mode, `n` bytes of it executed, `pc` at its first byte. -/
def fullText (n : Nat) : State := { inMode .real16 (withText 0 0x10000 oneRol) with pc := 0, executed := n }

/-- It runs from its first byte at the launch, and has ended when all of it is executed (`70_reset_and_hazards.md` R232). -/
theorem test_full_text : (fullText 0).textLeft = 0x10000 ∧ (fullText 0xFFFE).textLeft = 2 ∧
    refusalIn (step (fullText 0x10000)) = some .endOfProgram := by decide

theorem witness_RunEnds_launch : oneRol.launch ∧ (fullText 0).launch ∧
    (∃ t, Reaches 1 oneRol t ∧ t.executed = oneRol.params.textLen) :=
  ⟨⟨by decide, by decide⟩, ⟨by decide, by decide⟩, _, rfl, by decide⟩

/-- The end of a text in the middle of the code segment, and of one that ends at the wrap of a 16-bit `pc`. -/
theorem witness_RunEnds :
    (withText 0xFFE 2 (stateOf [] false false)).params.textLen < 2 ^ 64 ∧
    (stateOf [] false false).pc.toNat = (0xFFE + 2) % 2 ^ 64 ∧
    ({ inMode .real16 (withText 0xFFFE 2 State.reset) with pc := 0 } : State).pc.toNat = (0xFFFE + 2) % 2 ^ pcBits .real16 := by
  decide

/-- A state whose CS base is as given. -/
def withCs (base : Word64) (s : State) : State :=
  { s with params := { s.params with segs := { s.params.segs with cs := { SegParams.flat with base := base } } } }

/-- Texts of four bytes and their first instruction: across the top of a 16-bit `pc`, of 64-bit offsets and of 32-bit linear
addresses; across the canonical boundary by offset and by linear address; and two that end exactly at a top. -/
theorem witness_TextPlacementRefused :
    let at16 (p : Word64) (n : Nat) : State := { inMode .real16 (withText p n State.reset) with pc := p }
    let at64 (p : Word64) (n : Nat) : State := { withText p n State.reset with pc := p }
    let at32 (n : Nat) : State := { withCs 0xFFFFFFFE (inMode .prot32 (withText 0 n State.reset)) with pc := 0 }
    let based (n : Nat) : State := { withCs 0x7FFFFFFFFFFE (withText 0 n State.reset) with pc := 0 }
    refusalIn (step (at16 0xFFFE 4)) = some .textCrossesTop ∧ (at16 0xFFFE 2).textInSpace = true ∧
    refusalIn (step (at64 0xFFFFFFFFFFFFFFFE 4)) = some .textCrossesTop ∧
    refusalIn (step (at32 4)) = some .textCrossesTop ∧ (at32 2).textInSpace = true ∧
    refusalIn (step (at64 0x7FFFFFFFFFFE 4)) = some .textNotCanonical ∧ (at64 0x7FFFFFFFFFFE 2).textCanonical = true ∧
    refusalIn (step (based 4)) = some .textNotCanonical ∧ (based 2).textCanonical = true ∧ (at16 0xFFFE 4).textLeft ≠ 0 := by
  decide

theorem witness_PcAdvances : (∃ t, exec (.rolRm8One [] (.reg 0)) State.reset = .next t) ∧
    (∃ t, exec (.rolRm8One [] (.reg 0)) (inMode .real16 State.reset) = .next t) ∧
    ∃ t, exec (.rolRm8One [] (.reg 0)) (inMode .prot32 State.reset) = .next t :=
  ⟨exists_next _ (by decide), exists_next _ (by decide), exists_next _ (by decide)⟩

theorem witness_FlagsUnaffected : ∃ t, exec (.rclRm8Imm [] (.reg 0) 0) State.reset = .next t :=
  exists_next _ (by decide)

theorem witness_RclRegister : (Instr.rclRm32Cl [] none (.reg 1)).form.mn = .rcl ∧
    (Instr.rclRm32Cl [] none (.reg 1)).form.rm = .reg 1 ∧ (Instr.rclRm32Cl [] none (.reg 1)).wf State.reset.mode = true ∧
    (Instr.rclRm32Cl [] none (.reg 1)).form.lock = false := by decide

theorem witness_RcrRegister : (Instr.rcrRm8One [] (.reg 4)).form.mn = .rcr ∧
    (Instr.rcrRm8One [] (.reg 4)).form.rm = .reg 4 ∧ (Instr.rcrRm8One [] (.reg 4)).wf State.reset.mode = true ∧
    (Instr.rcrRm8One [] (.reg 4)).form.lock = false := by decide

theorem witness_RolRegister : (Instr.rolRm16Imm [] none (.reg 7) 0xFF).form.mn = .rol ∧
    (Instr.rolRm16Imm [] none (.reg 7) 0xFF).form.rm = .reg 7 ∧
    (Instr.rolRm16Imm [] none (.reg 7) 0xFF).wf (inMode .real16 State.reset).mode = true ∧
    (Instr.rolRm16Imm [] none (.reg 7) 0xFF).form.lock = false := by decide

theorem witness_RorRegister : (Instr.rorRm64Cl [] ⟨true, false, false, true⟩ (.reg 7)).form.mn = .ror ∧
    (Instr.rorRm64Cl [] ⟨true, false, false, true⟩ (.reg 7)).form.rm = .reg 7 ∧
    (Instr.rorRm64Cl [] ⟨true, false, false, true⟩ (.reg 7)).wf State.reset.mode = true ∧
    (Instr.rorRm64Cl [] ⟨true, false, false, true⟩ (.reg 7)).form.lock = false := by decide

/-- RBX = 2000H, CL = 9. -/
def atRbx : State := stateOf [(3, 0x2000), (1, 9)] true false

theorem witness_RclMemory : destOf (Instr.rclRm32Cl [] none (.mem 3 .d0)).form atRbx = .mem ⟨.ds, 0x2000, 4⟩ ∧
    (Instr.rclRm32Cl [] none (.mem 3 .d0)).wf atRbx.mode = true ∧
    (Instr.rclRm32Cl [] none (.mem 3 .d0)).form.lock = false ∧ atRbx.accessOk ⟨.ds, 0x2000, 4⟩ :=
  ⟨by decide, by decide, by decide, by decide, by decide, by decide, by decide, by decide⟩

theorem witness_RcrMemory : destOf (Instr.rcrRm8One [] (.mem 3 .d0)).form atRbx = .mem ⟨.ds, 0x2000, 1⟩ ∧
    (Instr.rcrRm8One [] (.mem 3 .d0)).wf atRbx.mode = true ∧
    (Instr.rcrRm8One [] (.mem 3 .d0)).form.lock = false ∧ atRbx.accessOk ⟨.ds, 0x2000, 1⟩ :=
  ⟨by decide, by decide, by decide, by decide, by decide, by decide, by decide, by decide⟩

theorem witness_RolMemory : destOf (Instr.rolRm16One [.opSize] none (.mem 3 .d0)).form atRbx = .mem ⟨.ds, 0x2000, 2⟩ ∧
    (Instr.rolRm16One [.opSize] none (.mem 3 .d0)).wf atRbx.mode = true ∧
    (Instr.rolRm16One [.opSize] none (.mem 3 .d0)).form.lock = false ∧ atRbx.accessOk ⟨.ds, 0x2000, 2⟩ :=
  ⟨by decide, by decide, by decide, by decide, by decide, by decide, by decide, by decide⟩

theorem witness_RorMemory :
    destOf (Instr.rorRm64Imm [] ⟨true, false, false, false⟩ (.mem 3 .d0) 0).form atRbx = .mem ⟨.ds, 0x2000, 8⟩ ∧
    (Instr.rorRm64Imm [] ⟨true, false, false, false⟩ (.mem 3 .d0) 0).wf atRbx.mode = true ∧
    (Instr.rorRm64Imm [] ⟨true, false, false, false⟩ (.mem 3 .d0) 0).form.lock = false ∧
    atRbx.accessOk ⟨.ds, 0x2000, 8⟩ :=
  ⟨by decide, by decide, by decide, by decide, by decide, by decide, by decide, by decide⟩

/-- The last byte of the lower canonical half, with a program text that ends just before it, and the first bytes of memory
with a text that starts just after them. -/
theorem witness_FlatMemory :
    let s := withText 0x7FFFFFFFFFFD 2 (stateOf [(3, 0x7FFFFFFFFFFF)] false false)
    let f := (Instr.rolRm8One [] (.mem 3 .d0)).form
    let s' := withText 4 2 (stateOf [] false false)
    let f' := (Instr.rolRm32One [] none (.mem 3 .d0)).form
    (s.Inv ∧ s.defaultParams ∧ s.mode = .mode64 ∧ (Instr.rolRm8One [] (.mem 3 .d0)).wf .mode64 = true ∧ f.lock = false ∧
      (∀ r, f.rm ≠ .reg r) ∧ (effectiveAddress f s).toNat + 1 = 2 ^ 47 ∧
      s.params.textStart.toNat + s.params.textLen ≤ (effectiveAddress f s).toNat) ∧
    s'.Inv ∧ s'.defaultParams ∧ (Instr.rolRm32One [] none (.mem 3 .d0)).wf .mode64 = true ∧
      (effectiveAddress f' s').toNat + 4 = s'.params.textStart.toNat :=
  ⟨⟨⟨by decide, by decide⟩, rfl, by decide, by decide, by decide, fun r h => (by cases h), by decide, by decide⟩,
    ⟨by decide, by decide⟩, rfl, by decide, by decide⟩

/-- AH, EAX in `Mode64` and R8 as destinations. -/
theorem witness_RegisterFrame : (∃ t, exec (.rolRm8One [] (.reg 4)) State.reset = .next t) ∧
    (∃ t, exec (.rolRm32One [] none (.reg 0)) State.reset = .next t) ∧
    (∃ t, exec (.rolRm64One [] ⟨true, false, false, true⟩ (.reg 0)) State.reset = .next t) ∧
    (Instr.rolRm8One [] (.reg 4)).form.size = .b8 ∧ (Instr.rolRm8One [] (.reg 4)).form.rex = none ∧
    (0 : BitVec 4).toNat = (4 : BitVec 3).toNat - 4 :=
  ⟨exists_next _ (by decide), exists_next _ (by decide), exists_next _ (by decide), by decide, by decide, by decide⟩

theorem witness_MemoryFrame : destOf (Instr.rclRm32Cl [] none (.mem 3 .d0)).form atRbx = .mem ⟨.ds, 0x2000, 4⟩ ∧
    (∃ t, exec (.rclRm32Cl [] none (.mem 3 .d0)) atRbx = .next t) ∧ 0x1FFF ∉ atRbx.accessPhys ⟨.ds, 0x2000, 4⟩ ∧
    0x2004 ∉ atRbx.accessPhys ⟨.ds, 0x2000, 4⟩ :=
  ⟨by decide, exists_next _ (by decide), by decide, by decide⟩

theorem witness_FullTurns : countMod .b64 64 = 0 ∧ countMod .b8 0xE0 = 0 ∧ countMod .b8 27 = 27 ∧ countMod .b16 0x31 = 17 ∧
    countMod .b8 0x38 = 24 ∧ countMod .b16 0x10 = 16 := by decide

theorem witness_ZeroCountClearsUpperHalf :
    let i : Instr := .rolRm32Imm [] none (.reg 0) 0x20
    i.form.rm = .reg 0 ∧ i.form.size = .b32 ∧ State.reset.mode = .mode64 ∧ i.wf .mode64 = true ∧ i.form.lock = false ∧
      (countValue i.form.count State.reset).toNat % 32 = 0 := by decide

theorem witness_AliasedCount : State.reset.mode = .mode64 ∧
    (Instr.rorRm64Cl [.opSize] ⟨true, true, true, false⟩ (.reg 1)).wf .mode64 = true ∧ Legacy.lock ∉ [Legacy.opSize] := by
  decide

theorem witness_View32 : State.reset.mode = .mode64 ∧ (inMode .prot32 State.reset).mode ≠ .mode64 := by decide

/-- AH and BH without a REX prefix; SPL with one; BL and R8B. -/
theorem witness_View8 : (4 : BitVec 4).toNat - 4 = (0 : BitVec 4).toNat ∧ (7 : BitVec 4).toNat - 4 = (3 : BitVec 4).toNat ∧
    (4 : BitVec 4).toNat < 8 ∧ (7 : BitVec 4).toNat < 8 ∧ (3 : BitVec 4).toNat < 4 ∧ 8 ≤ (8 : BitVec 4).toNat := by decide

theorem witness_LittleEndian : Memory.wf [(0x1000, 5)] = true ∧ 0x11223344 < 256 ^ 4 ∧ 3 < 4 := by decide

theorem witness_SegmentChoice :
    (Instr.rolRm8One [.opSize, .seg .fs] (.mem 5 (.d8 0))).form.legacy.filter isSegPrefix = [.seg .fs] ∧
    (Instr.rolRm8One [.opSize] (.mem 5 (.d8 0))).form.legacy.filter isSegPrefix = [] ∧
    (Instr.rolRm8One [] (.mem 5 (.d8 0))).form.rm = .mem 5 (.d8 0) ∧
    (Instr.rolRm8One [] (.memSib 0 4 4 .d0)).form.rm = .memSib 0 4 4 .d0 ∧
    (Instr.rolRm8One [] (.memSibDisp 0 4 0)).form.rm = .memSibDisp 0 4 0 ∧
    (Instr.rolRm8One [] (.memDisp32 0)).form.rm = .memDisp32 0 ∧
    (Instr.rolRm8One [] (.mem16 3 (.d8 0))).form.rm = .mem16 3 (.d8 0) ∧
    (Instr.rolRm8One [] (.mem16Abs 0)).form.rm = .mem16Abs 0 ∧
    (Instr.rolRm8One [] (.mem16Abs 0)).form.legacy.filter isSegPrefix = [] := by decide

theorem witness_Ea16 : (Instr.rolRm8One [] (.mem16 6 (.d8 0xFF))).form.rm = .mem16 6 (.d8 0xFF) ∧
    (Instr.rolRm8One [] (.mem16Abs 0xFFFF)).form.rm = .mem16Abs 0xFFFF := by decide

theorem witness_EaModRm : addressSize .mode64 [] ≠ .a16 ∧ addressSize .mode64 [.addrSize] ≠ .a16 ∧
    addressSize .real16 [.addrSize] ≠ .a16 ∧ (Instr.rolRm8One [] (.mem 5 (.d8 0))).form.rm = .mem 5 (.d8 0) ∧
    (Instr.rolRm8One [] (.memDisp32 7)).form.rm = .memDisp32 7 ∧ (inMode .prot32 State.reset).mode ≠ .mode64 := by decide

theorem witness_EaSib : addressSize .prot32 [] ≠ .a16 ∧
    (Instr.rolRm8One [] (.memSib 3 4 5 (.d32 1))).form.rm = .memSib 3 4 5 (.d32 1) ∧
    (Instr.rolRm8One [] (.memSibDisp 1 4 0x80000000)).form.rm = .memSibDisp 1 4 0x80000000 := by decide

theorem witness_LockFaults : (Instr.rolRm8One [.lock] (.reg 0)).wf State.reset.mode = true ∧
    (Instr.rolRm8One [.lock] (.reg 0)).form.lock = true ∧ (Instr.rolRm8One [.lock] (.reg 0)).form.rm = .reg 0 ∧
    (Instr.rolRm8One [.lock] (.mem 0 .d0)).wf State.reset.mode = true ∧
    State.reset.params.faultOrder = FaultClass.defaultOrder := by decide

/-- An odd address, alignment checking enabled. -/
def misaligned : State :=
  { stateOf [(3, 0x2001)] false false with params := { Params.default with alignCheckEnabled := true } }

theorem witness_AlignmentFault : (Instr.rolRm16One [.opSize] none (.mem 3 .d0)).wf misaligned.mode = true ∧
    destOf (Instr.rolRm16One [.opSize] none (.mem 3 .d0)).form misaligned = .mem ⟨.ds, 0x2001, 2⟩ ∧
    ¬2 ∣ (misaligned.linear .ds 0x2001).toNat ∧ misaligned.params.alignCheckEnabled = true ∧ misaligned.params.cpl = 3 ∧
    misaligned.segCheck ⟨.ds, 0x2001, 2⟩ = none ∧ misaligned.canonCheck ⟨.ds, 0x2001, 2⟩ = none ∧
    faultIn (exec (.rolRm16One [.opSize] none (.mem 3 .d0)) misaligned) = some (.ac 0) := by decide

/-- Two bytes at the last byte of the lower half: the second one is not canonical, the first one is. -/
theorem witness_CanonicalFault :
    let s := stateOf [(3, 0x7FFFFFFFFFFF)] false false
    destOf (Instr.rolRm16One [.opSize] none (.mem 3 .d0)).form s = .mem ⟨.ds, 0x7FFFFFFFFFFF, 2⟩ ∧
      (s.seg .ds).writable = true ∧ ¬canonicalBits .la48 (0x7FFFFFFFFFFF + 1) ∧ canonicalBits .la48 0x7FFFFFFFFFFF ∧
      canonicalBits .la48 (2 ^ 64 - 2 ^ 47) := by
  refine ⟨by decide, by decide, ?_, ?_, ?_⟩
  · rintro ⟨_, h⟩
    exact absurd (h 47 63 (by decide) (by decide) (by decide) (by decide)) (by decide)
  · refine ⟨by decide, fun i j hi hi' hj hj' => ?_⟩
    simp only [laBitsNat] at hi hj
    rw [Nat.testBit_lt_two_pow (Nat.lt_of_lt_of_le (by decide) (Nat.pow_le_pow_right (by decide) hi)),
      Nat.testBit_lt_two_pow (Nat.lt_of_lt_of_le (by decide) (Nat.pow_le_pow_right (by decide) hj))]
  · refine ⟨by decide, fun i j hi hi' hj hj' => ?_⟩
    simp only [laBitsNat] at hi hj
    have hb : ∀ k, 47 ≤ k → k < 64 → (2 ^ 64 - 2 ^ 47 : Nat).testBit k = true := by decide
    rw [hb i (by omega) hi', hb j (by omega) hj']

/-- The bytes 0 to 1FFFH are mapped writable, 2000H is mapped read-only, the rest is not mapped; RBX = 1FFFH. -/
def paged : State :=
  { stateOf [(3, 0x1FFF)] false false with
    params := { Params.default with paging := some [⟨0, 0x2000, 0, true⟩, ⟨0x2000, 1, 0x2000, false⟩] } }

theorem witness_PageFault : destOf (Instr.rolRm16One [.opSize] none (.mem 3 .d0)).form paged = .mem ⟨.ds, 0x1FFF, 2⟩ ∧
    paged.segCheck ⟨.ds, 0x1FFF, 2⟩ = none ∧ paged.canonCheck ⟨.ds, 0x1FFF, 2⟩ = none ∧
    paged.alignCheck ⟨.ds, 0x1FFF, 2⟩ = none ∧
    (paged.translate (paged.byteAddr (paged.linear .ds 0x1FFF) 0) true).isSome = true ∧
    paged.translate (paged.byteAddr (paged.linear .ds 0x1FFF) 1) true = none ∧
    paged.translate (paged.byteAddr (paged.linear .ds 0x1FFF) 1) false = some 0x2000 := by decide

/-- The codes of a user-mode write (`20_memory.md` R50): 7 at the read-only byte, 6 at a byte that is not mapped. -/
theorem test_page_codes :
    faultIn (exec (.rolRm16One [.opSize] none (.mem 3 .d0)) paged) = some (.pf 7 0x2000) ∧
    faultIn (exec (.rolRm8One [] (.mem 3 (.d8 2))) paged) = some (.pf 6 0x2001) := by decide

/-- Not writable in protected mode and in `Mode64`; one byte beyond the limit in real-address mode; a NULL selector. -/
theorem witness_SegmentFaults :
    let rd := withDs ⟨0, none, false, false⟩ (inMode .prot32 (stateOf [(3, 0x2000)] false false))
    let lim := withDs ⟨0, some 0x2000, true, false⟩ (inMode .real16 (stateOf [(3, 0x2000)] false false))
    let nul := withDs ⟨0, some 0x2000, true, true⟩ (inMode .compat32 (stateOf [(3, 0x2000)] false false))
    faultIn (exec (.rolRm8One [] (.mem 3 .d0)) rd) = some (.gp (some 0)) ∧
    faultIn (exec (.rolRm16One [] none (.mem16 7 .d0)) lim) = some (.gp none) ∧
    (nextOf (exec (.rolRm8One [] (.mem16 7 .d0)) lim)).isSome = true ∧
    faultIn (exec (.rolRm8One [] (.mem 3 .d0)) nul) = some (.gp (some 0)) ∧
    destOf (Instr.rolRm8One [] (.mem 3 .d0)).form rd = .mem ⟨.ds, 0x2000, 1⟩ ∧
    destOf (Instr.rolRm16One [] none (.mem16 7 .d0)).form lim = .mem ⟨.ds, 0x2000, 2⟩ ∧
    destOf (Instr.rolRm8One [] (.mem 3 .d0)).form nul = .mem ⟨.ds, 0x2000, 1⟩ := by decide

theorem witness_FaultCauses : (∃ e, exec (.rolRm8One [.lock] (.reg 0)) State.reset = .fault e) ∧
    (∃ e, exec (.rolRm16One [.opSize] none (.mem 3 .d0)) misaligned = .fault e) ∧
    (∃ e, exec (.rolRm16One [.opSize] none (.mem 3 .d0)) paged = .fault e) ∧
    (∃ e, exec (.rolRm8One [] (.mem 3 .d0)) (stateOf [(3, 0x800000000000)] false false) = .fault e) ∧
    ∃ e, exec (.rolRm8One [] (.mem 5 (.d8 0))) (stateOf [(5, 0x800000000000)] false false) = .fault e :=
  ⟨exists_fault _ (by decide), exists_fault _ (by decide), exists_fault _ (by decide), exists_fault _ (by decide),
    exists_fault _ (by decide)⟩

theorem witness_DefaultsNeverFault :
    let s := stateOf [(3, 0x800000000000)] false false
    s.defaultParams ∧ (Instr.rolRm8One [] (.mem 3 .d0)).form.lock = false ∧
      ∃ e, exec (.rolRm8One [] (.mem 3 .d0)) s = .fault e :=
  ⟨rfl, by decide, exists_fault _ (by decide)⟩

/-- Another count of the same length for a row with count 1 and one with an immediate; a SIB byte without an index register,
and one whose index is register 1. -/
theorem witness_CountNoFault :
    let s := stateOf [(3, 0x800000000000)] false false
    (∃ e, exec (.rolRm8One [] (.mem 3 .d0)) s = .fault e) ∧ (∃ e, exec (.rolRm8Imm [] (.mem 3 .d0) 0) s = .fault e) ∧
      (∃ e, exec (.rolRm8Cl [] (.memSib 3 4 3 .d0)) s = .fault e) ∧
      (Instr.rolRm8Cl [] (.mem 3 .d0)).form = { (Instr.rolRm8One [] (.mem 3 .d0)).form with count := .cl } ∧
      (Instr.rolRm8Cl [] (.mem 3 .d0)).form.length = (Instr.rolRm8One [] (.mem 3 .d0)).form.length ∧
      (Instr.rolRm8Imm [] (.mem 3 .d0) 9).form = { (Instr.rolRm8Imm [] (.mem 3 .d0) 0).form with count := .imm 9 } ∧
      (Instr.rolRm8Imm [] (.mem 3 .d0) 9).form.length = (Instr.rolRm8Imm [] (.mem 3 .d0) 0).form.length ∧
      addressUsesReg1 (Instr.rolRm8Cl [] (.memSib 3 4 3 .d0)).form = false ∧
      addressUsesReg1 (Instr.rolRm8Cl [] (.memSib 3 1 3 .d0)).form = true :=
  ⟨exists_fault _ (by decide), exists_fault _ (by decide), exists_fault _ (by decide), by decide, by decide, by decide,
    by decide, by decide, by decide⟩

/-- A destination whose last byte is device memory, and one whose last byte is the first of the program text. -/
theorem witness_DestinationRefused :
    let dev := { atRbx with params := { Params.default with devices := [⟨0x2003, 1⟩] } }
    let txt := withText 0x2003 2 atRbx
    refusalIn (exec (.rolRm32One [] none (.mem 3 .d0)) dev) = some .deviceMemory ∧
    refusalIn (exec (.rolRm32One [] none (.mem 3 .d0)) txt) = some .textOverlap ∧
    (∃ a ∈ dev.accessPhys ⟨.ds, 0x2000, 4⟩, dev.inDevice a = true) ∧
    (∀ a ∈ txt.accessPhys ⟨.ds, 0x2000, 4⟩, txt.inDevice a = false) ∧
    ∃ a ∈ txt.accessPhys ⟨.ds, 0x2000, 4⟩, ∃ j, j < txt.params.textLen ∧ txt.fetchPhys (txt.textOffset j) = some a := by
  refine ⟨by decide, by decide, by decide, by decide, 0x2003, by decide, 0, by decide, by decide⟩

end Sys2Proof.Tests
end

section
/-! PROOFS. The statements of `00_scope.md`: what the default parameters leave of the checks of an access, and that a step is
exec of the instruction decoded at `pc`. -/

namespace Sys2Proof.Machine

/-! ## Canonical addresses by bits -/

/-- The bits of a 64-bit number from bit `m` on are all 0 exactly when it is below `2^m`. -/
theorem lt_two_pow_iff_upper_bits_clear (m a : Nat) (ha : a < 2 ^ 64) :
    a < 2 ^ m ↔ ∀ i, m ≤ i → i < 64 → a.testBit i = false := by
  constructor
  · intro h i hi _
    exact Nat.testBit_lt_two_pow (Nat.lt_of_lt_of_le h (Nat.pow_le_pow_right (by decide) hi))
  · intro h
    refine Nat.lt_pow_two_of_testBit a fun i hi => ?_
    rcases Nat.lt_or_ge i 64 with hi64 | hi64
    · exact h i hi hi64
    · exact Nat.testBit_lt_two_pow (Nat.lt_of_lt_of_le ha (Nat.pow_le_pow_right (by decide) hi64))

/-- The bits of a 64-bit number from bit `m` on are all 1 exactly when it is among the last `2^m`: its complement then has
them all 0. -/
theorem upper_bits_set_iff (m a : Nat) (ha : a < 2 ^ 64) :
    2 ^ 64 - (a + 1) < 2 ^ m ↔ ∀ i, m ≤ i → i < 64 → a.testBit i = true := by
  rw [lt_two_pow_iff_upper_bits_clear m _ (by omega)]
  have flip (i : Nat) (hi : i < 64) : (2 ^ 64 - (a + 1)).testBit i = !a.testBit i := by
    rw [Nat.testBit_two_pow_sub_succ ha, decide_eq_true hi, Bool.true_and]
  refine forall_congr' fun i => forall_congr' fun _ => forall_congr' fun hi => ?_
  rw [flip i hi, Bool.not_eq_false']

/-- The check of the model is the definition of `20_memory.md` R49 by bits. -/
theorem isCanonical_iff_canonicalBits (k : LaBits) (a : Nat) : isCanonical k a = true ↔ canonicalBits k a := by
  have hm : laBitsNat k - 1 < 64 := by cases k <;> decide
  have hp : 2 ^ (laBitsNat k - 1) < 2 ^ 64 := Nat.pow_lt_pow_right (by decide) hm
  simp only [isCanonical, canonicalBits, Bool.or_eq_true, Bool.and_eq_true, decide_eq_true_eq]
  generalize laBitsNat k - 1 = m at hm hp
  constructor
  · rintro (low | ⟨high, ha⟩)
    · have ha := low.trans hp
      have zeros := (lt_two_pow_iff_upper_bits_clear m a ha).mp low
      exact ⟨ha, fun i j hi hi64 hj hj64 => (zeros i hi hi64).trans (zeros j hj hj64).symm⟩
    · have ones := (upper_bits_set_iff m a ha).mp (by omega)
      exact ⟨ha, fun i j hi hi64 hj hj64 => (ones i hi hi64).trans (ones j hj hj64).symm⟩
  · rintro ⟨ha, same⟩
    cases hbit : a.testBit m with
    | false =>
      exact .inl ((lt_two_pow_iff_upper_bits_clear m a ha).mpr fun i hi hi64 =>
        (same i m hi hi64 le_rfl hm).trans hbit)
    | true =>
      have high := (upper_bits_set_iff m a ha).mpr fun i hi hi64 => (same i m hi hi64 le_rfl hm).trans hbit
      exact .inr ⟨by omega, ha⟩

/-! ## The default parameters -/

theorem State.defaultParams_laBits {s : State} (h : s.defaultParams) : s.params.laBits = .la48 :=
  congrArg Params.laBits h

theorem State.defaultParams_alignCheckEnabled {s : State} (h : s.defaultParams) : s.params.alignCheckEnabled = false :=
  congrArg Params.alignCheckEnabled h

theorem State.defaultParams_paging {s : State} (h : s.defaultParams) : s.params.paging = none :=
  congrArg Params.paging h

theorem State.defaultParams_seg {s : State} (h : s.defaultParams) (g : Seg) : s.seg g = .flat := by
  have hsegs : s.params.segs = .flat := congrArg Params.segs h
  cases g <;> simp [State.seg, hsegs, SegTable.flat]

/-- Through a flat segment the linear address in `Mode64` is the effective address (`20_memory.md` R47). -/
theorem State.linear_flat_mode64 {s : State} {g : Seg} (hg : s.seg g = .flat) (hm : s.mode = .mode64) (ea : Word64) :
    s.linear g ea = ea := by
  apply BitVec.eq_of_toNat_eq
  simp [State.linear, hg, hm, SegParams.flat, linearBits, Nat.mod_eq_of_lt ea.isLt]

/-- A flat segment is writable, has no limit and no NULL selector, so `SegCheck` passes (`20_memory.md` R48). -/
theorem State.segCheck_flat {s : State} {x : Access} (hg : s.seg x.seg = .flat) : s.segCheck x = none := by
  refine Option.eq_none_iff_forall_ne_some.mpr fun e he => ?_
  rcases s.segCheck_some x e he with ⟨_, readOnly, _⟩ | ⟨_, beyond, _⟩ | ⟨_, _, null, _⟩
  · simp [hg, SegParams.flat] at readOnly
  · simp [hg, SegParams.flat, beyondLimit] at beyond
  · simp [hg, SegParams.flat] at null

theorem State.alignCheck_disabled {s : State} (h : s.params.alignCheckEnabled = false) (x : Access) :
    s.alignCheck x = none := by
  simp [State.alignCheck, h]

/-- Without paging no byte is refused (`20_memory.md` R50). -/
theorem State.pageCheck_identity {s : State} (h : s.params.paging = none) (x : Access) : s.pageCheck x = none := by
  refine Option.eq_none_iff_forall_ne_some.mpr fun e he => ?_
  obtain ⟨la, _, unmapped, _⟩ := s.pageCheck_some x e he
  simp [s.translate_identity la true (.inr h)] at unmapped

/-- Of the checks of an access only the canonical one can fail under the defaults, so a fault without LOCK is its own. -/
theorem State.faultOf_defaultParams {s : State} (h : s.defaultParams) {d : Dest} {e : Fault}
    (hf : s.faultOf false d = some e) : ∃ x, d = .mem x ∧ s.canonCheck x ≠ none := by
  cases d with
  | reg c => simp [s.faultOf_reg c] at hf
  | mem x =>
    refine ⟨x, rfl, fun canonical => ?_⟩
    have pass : s.faultOf false (.mem x) = none := (s.faultOf_mem_none x).mpr
      ⟨State.segCheck_flat (State.defaultParams_seg h x.seg), canonical,
        State.alignCheck_disabled (State.defaultParams_alignCheckEnabled h) x,
        State.pageCheck_identity (State.defaultParams_paging h) x⟩
    simp [pass] at hf

/-- Settles O53: the canonical check is the only one left, and its linear address is the effective address. -/
theorem defaultsNeverFault : Obligations.DefaultsNeverFault := by
  intro i s e hdef hlock hexec
  rw [exec_eq_execRotate, execRotate_fault, hlock] at hexec
  obtain ⟨x, hdest, hcanon⟩ := State.faultOf_defaultParams hdef hexec.2
  obtain ⟨e', he'⟩ := Option.ne_none_iff_exists'.mp hcanon
  obtain ⟨hmode, ⟨k, hk, stray⟩, _⟩ := s.canonCheck_some x e' he'
  have hx := destOf_mem i.form s x hdest
  have hlinear : s.accessLinear x = effectiveAddress i.form s := by
    rw [State.accessLinear, State.linear_flat_mode64 (State.defaultParams_seg hdef _) hmode, hx]
  refine ⟨hmode, x, k, hdest, by simpa [hx] using hk, ?_⟩
  rw [← isCanonical_iff_canonicalBits, ← hlinear, ← State.defaultParams_laBits hdef, stray]
  exact Bool.false_ne_true

/-! ## One step -/

/-- Settles O13: the fetch takes the decoded instruction, and the step executes what the fetch takes. -/
theorem stepRunsDecoded : Obligations.StepRunsDecoded := by
  intro s bs rest i hbytes hdecode
  have hfetch : s.fetch = .ok i := (s.fetch_ok i).mpr ⟨bs, rest, hbytes, hdecode⟩
  rw [step, hfetch]

end Sys2Proof.Machine
end

section
/-! PROOFS. The statements of `10_state.md`: how many bytes a decoding takes, what a step keeps, where a run ends and which
program texts are refused; the register views and the frames of the two kinds of destination. -/

namespace Sys2Proof

/-! ## The bytes an encoding takes -/

theorem encodeRm_length (d : BitVec 3) (rm : Rm) : (encodeRm d rm).length = 1 + extraLength rm := by
  cases rm with
  | mem16 _ disp | mem _ disp | memSib _ _ _ disp => cases disp <;> rfl
  | reg _ | mem16Abs _ | memSibDisp _ _ _ | memDisp32 _ => rfl

/-- The length of a form by the bytes that the encoder writes for its parts (`30_encoding.md` R61). -/
theorem Form.length_eq (f : Form) :
    f.length = f.legacy.length + (rexBytes f.rex).length + 2 + extraLength f.rm + (countBytes f.count).length := by
  obtain ⟨_, _, _, rex, _, count⟩ := f
  cases rex <;> cases count <;> rfl

/-- The length that moves `pc` is the number of bytes of the encoding (`30_encoding.md` R61). -/
theorem encode_length (i : Instr) : (encode i).length = i.form.length := by
  simp only [encode, encodeForm, List.length_append, List.length_map, List.length_singleton, encodeRm_length,
    Form.length_eq]
  omega

/-! ## The bytes a decoding takes -/

theorem splitLegacy_length (bs : List Byte) :
    (splitLegacy bs).1.length + (splitLegacy bs).2.length = bs.length := by
  induction bs with
  | nil => rfl
  | cons b bs ih =>
    rw [splitLegacy]
    split
    · simp only [List.length_cons]
      omega
    · simp

theorem splitRex_length (m : Mode) (bs : List Byte) :
    (rexBytes (splitRex m bs).1).length + (splitRex m bs).2.length = bs.length := by
  cases bs with
  | nil => rfl
  | cons b bs =>
    rw [splitRex]
    split
    · rename_i hrex
      obtain ⟨r, hr⟩ := Option.isSome_iff_exists.mp hrex.2
      simp [hr, rexBytes, Nat.add_comm]
    · simp [rexBytes]

theorem take8_length {bs rest : List Byte} {v : BitVec 8} (h : take8 bs = some (v, rest)) :
    1 + rest.length = bs.length := by
  unfold take8 at h
  split at h
  · cases h
    simp only [List.length_cons]
    omega
  · cases h

theorem take16_length {bs rest : List Byte} {v : BitVec 16} (h : take16 bs = some (v, rest)) :
    2 + rest.length = bs.length := by
  unfold take16 at h
  split at h
  · cases h
    simp only [List.length_cons]
    omega
  · cases h

theorem take32_length {bs rest : List Byte} {v : BitVec 32} (h : take32 bs = some (v, rest)) :
    4 + rest.length = bs.length := by
  unfold take32 at h
  split at h
  · cases h
    simp only [List.length_cons]
    omega
  · cases h

theorem decodeMem16_length {mod : BitVec 2} {rm : BitVec 3} {bs rest : List Byte} {x : Rm}
    (h : decodeMem16 mod rm bs = some (x, rest)) : extraLength x + rest.length = bs.length := by
  unfold decodeMem16 at h
  split_ifs at h
  · obtain ⟨q, hq, ⟨⟩⟩ := Option.map_eq_some_iff.mp h
    exact take16_length hq
  · cases h
    exact Nat.zero_add _
  · obtain ⟨q, hq, ⟨⟩⟩ := Option.map_eq_some_iff.mp h
    exact take8_length hq
  · obtain ⟨q, hq, ⟨⟩⟩ := Option.map_eq_some_iff.mp h
    exact take16_length hq

theorem decodeSib_length {mod : BitVec 2} {sib : Byte} {bs rest : List Byte} {x : Rm}
    (h : decodeSib mod sib bs = some (x, rest)) : extraLength x + rest.length = 1 + bs.length := by
  unfold decodeSib at h
  dsimp only at h
  split_ifs at h
  · obtain ⟨q, hq, ⟨⟩⟩ := Option.map_eq_some_iff.mp h
    rw [← take32_length hq, extraLength]
    omega
  · cases h
    rfl
  · obtain ⟨q, hq, ⟨⟩⟩ := Option.map_eq_some_iff.mp h
    rw [← take8_length hq, extraLength]
    omega
  · obtain ⟨q, hq, ⟨⟩⟩ := Option.map_eq_some_iff.mp h
    rw [← take32_length hq, extraLength]
    omega

theorem decodeMem_length {mod : BitVec 2} {rm : BitVec 3} {bs rest : List Byte} {x : Rm}
    (h : decodeMem mod rm bs = some (x, rest)) : extraLength x + rest.length = bs.length := by
  unfold decodeMem at h
  split_ifs at h
  · cases bs with
    | nil => cases h
    | cons sib bs => rw [decodeSib_length h, List.length_cons, Nat.add_comm]
  · obtain ⟨q, hq, ⟨⟩⟩ := Option.map_eq_some_iff.mp h
    exact take32_length hq
  · cases h
    exact Nat.zero_add _
  · obtain ⟨q, hq, ⟨⟩⟩ := Option.map_eq_some_iff.mp h
    exact take8_length hq
  · obtain ⟨q, hq, ⟨⟩⟩ := Option.map_eq_some_iff.mp h
    exact take32_length hq

theorem decodeRm_length {a : AddrSize} {modrm : Byte} {bs rest : List Byte} {x : Rm}
    (h : decodeRm a modrm bs = some (x, rest)) : extraLength x + rest.length = bs.length := by
  unfold decodeRm at h
  dsimp only at h
  split_ifs at h
  · cases h
    exact Nat.zero_add _
  · exact decodeMem16_length h
  · exact decodeMem_length h

theorem decodeCount_length {k : CountKind} {bs rest : List Byte} {c : Count}
    (h : decodeCount k bs = some (c, rest)) : (countBytes c).length + rest.length = bs.length := by
  cases k with
  | one | cl =>
    cases h
    exact Nat.zero_add _
  | imm =>
    obtain ⟨q, hq, ⟨⟩⟩ := Option.map_eq_some_iff.mp h
    exact take8_length hq

/-- What the decoding procedure of `30_encoding.md` R88 has done when it accepts. -/
theorem decodeForm_ok {m : Mode} {bs rest : List Byte} {f : Form} (h : decodeForm m bs = .ok (f, rest)) :
    f.legacy = (splitLegacy bs).1 ∧ f.rex = (splitRex m (splitLegacy bs).2).1 ∧
      ∃ op modrm wide kind afterModrm afterRm,
        (splitRex m (splitLegacy bs).2).2 = op :: modrm :: afterModrm ∧
        opcodeOf op = some (wide, kind) ∧
        f.size = operandSize m f.legacy f.rex wide ∧
        mnemonicOf (modrm.extractLsb' 3 3) = some f.mn ∧
        decodeRm (addressSize m f.legacy) modrm afterModrm = some (f.rm, afterRm) ∧
        decodeCount kind afterRm = some (f.count, rest) := by
  unfold decodeForm at h
  dsimp only at h
  split at h
  · cases h
  split at h
  · cases h
  rename_i op _ hop
  split at h
  · cases h
  rename_i wide kind hopcode
  split at h
  · cases h
  rename_i modrm afterModrm
  split at h
  · cases h
  rename_i hmn
  split at h
  · cases h
  rename_i hrm
  split at h
  · cases h
  rename_i hcount
  cases h
  exact ⟨rfl, rfl, op, modrm, wide, kind, afterModrm, _, hop, hopcode, rfl, hmn, hrm, hcount⟩

/-- A 64-bit operand has a REX byte (`30_encoding.md` R70). -/
theorem operandSize_b64 {m : Mode} {l : List Legacy} {rex : Option Rex} {wide : Bool}
    (h : operandSize m l rex wide = .b64) : rex.isSome = true := by
  unfold operandSize at h
  split_ifs at h with _ hw
  · cases rex with
    | none => exact absurd hw Bool.false_ne_true
    | some r => rfl
  · split at h <;> cases h
  · cases m <;> cases h

/-- The row that R85 selects for a form has that form's columns, when a 64-bit form has a REX byte. -/
theorem ofForm_form {f : Form} (h : f.size = .b64 → f.rex.isSome = true) : (Instr.ofForm f).form = f := by
  obtain ⟨mn, size, l, rex, rm, count⟩ := f
  cases size with
  | b8 => cases mn <;> cases count <;> cases rex <;> rfl
  | b16 | b32 => cases mn <;> cases count <;> rfl
  | b64 =>
    obtain ⟨r, rfl⟩ := Option.isSome_iff_exists.mp (h rfl)
    cases mn <;> cases count <;> rfl

/-- A decoding takes as many bytes as the instruction is long (`30_encoding.md` R61, R88). -/
theorem decode_length {m : Mode} {bs rest : List Byte} {i : Instr} (h : decode m bs = .ok (i, rest)) :
    i.form.length + rest.length = bs.length := by
  unfold decode at h
  split at h
  · rename_i f r hform
    cases h
    obtain ⟨hlegacy, hrex, op, modrm, wide, kind, afterModrm, afterRm, hop, _, hsize, _, hrm, hcount⟩ :=
      decodeForm_ok hform
    have h64 : f.size = .b64 → f.rex.isSome = true := fun hz => operandSize_b64 (hsize.symm.trans hz)
    have hl := splitLegacy_length bs
    have hr := splitRex_length m (splitLegacy bs).2
    have hm := decodeRm_length hrm
    have hc := decodeCount_length hcount
    rw [← hlegacy] at hl
    rw [← hrex, hop, List.length_cons, List.length_cons] at hr
    rw [ofForm_form h64, Form.length_eq]
    omega
  · cases h

end Sys2Proof

namespace Sys2Proof.Machine

/-! ## What a completed rotate keeps -/

/-- The code offset `n` bytes after `pc` as a number. -/
theorem State.pcPlus_toNat (s : State) (n : Nat) :
    (s.pcPlus n).toNat = (s.pc.toNat + n) % 2 ^ pcBits s.mode := by
  rw [State.pcPlus, BitVec.toNat_ofNat]
  exact Nat.mod_eq_of_lt (Nat.lt_of_lt_of_le (Nat.mod_lt _ (Nat.two_pow_pos _)) (two_pow_pcBits_le s.mode))

theorem eq_commit_of_exec_next {i : Instr} {s t : State} (h : exec i s = .next t) : t = commit i.form s := by
  rw [exec_eq_execRotate, execRotate_next] at h
  exact h.2.2.2

theorem commit_inv {f : Form} {s : State} (h : s.Inv) : (commit f s).Inv := by
  refine ⟨?_, ?_⟩
  · rw [commit_mem]
    exact writeDest_mem_wf _ _ _ _ s h.1
  · rw [commit_pc, commit_mode, State.pcPlus_toNat]
    exact Nat.mod_lt _ (Nat.two_pow_pos _)

/-- Settles O9: a step that completes is the write-back of one rotate, which keeps the invariant. -/
theorem stepKeepsInv : Obligations.StepKeepsInv := by
  intro s t hinv hstep
  obtain ⟨i, _, hexec⟩ := (step_next s t).mp hstep
  rw [eq_commit_of_exec_next hexec]
  exact commit_inv hinv

/-- Settles O10. -/
theorem resetInv : Obligations.ResetInv := ⟨State.reset_mem_wf, by decide⟩

/-- Settles O16: the write-back moves `pc` by the length of the form, which is that of the encoding. -/
theorem pcAdvances : Obligations.PcAdvances := by
  intro i s t hexec
  rw [eq_commit_of_exec_next hexec, commit_pc, State.pcPlus_toNat, encode_length]
  cases s.mode <;> rfl

/-! ## The end of a run -/

/-- What every completed step keeps holds after a run. -/
theorem reaches_induction {P : State → Prop} (hstep : ∀ s t, P s → step s = .next t → P t) {k : Nat} {s t : State}
    (hrun : Reaches k s t) (hs : P s) : P t := by
  unfold Reaches at hrun
  induction k generalizing s with
  | zero =>
    cases hrun
    exact hs
  | succ k ih =>
    obtain ⟨u, hfirst, hrest⟩ := (run_succ_next k s t).mp hrun
    exact ih hrest (hstep s u hs hfirst)

theorem mapM_option_length {α β : Type} {g : α → Option β} {as : List α} {bs : List β} (h : as.mapM g = some bs) :
    bs.length = as.length := by
  induction as generalizing bs with
  | nil =>
    cases h
    rfl
  | cons a as ih =>
    rw [List.mapM_cons] at h
    obtain ⟨b, _, h⟩ := Option.bind_eq_some_iff.mp h
    obtain ⟨bs', htail, ⟨⟩⟩ := Option.bind_eq_some_iff.mp h
    simp [ih htail]

theorem State.codeBytes_length {s : State} {n : Nat} {bs : List Byte} (h : s.codeBytes n = some bs) :
    bs.length = n := by
  rw [mapM_option_length h, List.length_range]

/-- The instruction fetched lies within what is left of the program text. -/
theorem State.fetch_length_le {s : State} {i : Instr} (h : s.fetch = .ok i) : i.form.length ≤ s.textLeft := by
  obtain ⟨bs, rest, hbytes, hdecode⟩ := (s.fetch_ok i).mp h
  obtain ⟨_, _, _, hcode⟩ := (s.fetchBytes_ok bs).mp hbytes
  have htaken := decode_length hdecode
  have hleft := State.codeBytes_length hcode
  omega

theorem State.textOffset_congr {s t : State} (h : t.params = s.params) (n : Nat) : t.textOffset n = s.textOffset n := by
  simp [State.textOffset, State.mode, h]

/-- `pc` lies as many bytes behind the first byte of the program text as are executed, and these are no more than the text
has (`70_reset_and_hazards.md` R232). -/
def State.OnText (s : State) : Prop := s.pc = s.textOffset s.executed ∧ s.executed ≤ s.params.textLen

theorem State.onText_of_launch {s : State} (h : s.launch) : s.OnText := by
  obtain ⟨hpc, hexecuted⟩ := h
  rw [State.OnText, hexecuted]
  exact ⟨hpc, Nat.zero_le _⟩

theorem step_onText {s t : State} (h : s.OnText) (hstep : step s = .next t) : t.OnText ∧ t.params = s.params := by
  obtain ⟨i, hfetch, hexec⟩ := (step_next s t).mp hstep
  obtain ⟨hpc, _⟩ := h
  have hlength := State.fetch_length_le hfetch
  obtain rfl := eq_commit_of_exec_next hexec
  refine ⟨⟨?_, ?_⟩, commit_params _ _⟩
  · rw [commit_pc, commit_executed, State.textOffset_congr (commit_params _ _), State.pcPlus_textOffset s _ _ hpc]
  · rw [commit_executed, commit_params]
    unfold State.textLeft at hlength
    omega

/-- On the text the run has ended exactly when all of it is executed. -/
theorem State.OnText.step_endOfProgram_iff {s : State} (h : s.OnText) :
    step s = .refused .endOfProgram ↔ s.executed = s.params.textLen := by
  obtain ⟨hpc, hle⟩ := h
  have hindex := s.textIndex_textOffset s.executed (congrArg BitVec.toNat hpc)
  have hmod := Nat.mod_le s.executed (2 ^ pcBits s.mode)
  rw [step_endOfProgram, State.textLeft_eq_zero, hindex]
  omega

/-- A state whose `pc` is the byte after a text shorter than the code space has none of it left. -/
theorem State.textLeft_behind_text {s : State} (hshort : s.params.textLen < 2 ^ pcBits s.mode)
    (hpc : s.pc.toNat = (s.textOffset s.params.textLen).toNat) : s.textLeft = 0 := by
  rw [State.textLeft_eq_zero, s.textIndex_textOffset _ hpc, Nat.mod_eq_of_lt hshort]
  exact .inl le_rfl

/-- Settles O15: every state of a run is on the text. -/
theorem runEnds : Obligations.RunEnds := by
  refine ⟨fun k s t hlaunch hrun => ?_, fun s hshort hpc => ?_⟩
  · obtain ⟨hon, hparams⟩ : t.OnText ∧ t.params = s.params :=
      reaches_induction (P := fun u => u.OnText ∧ u.params = s.params)
        (fun u v hu hstep => (step_onText hu.1 hstep).imp_right (·.trans hu.2)) hrun
        ⟨State.onText_of_launch hlaunch, rfl⟩
    have hend := hon.step_endOfProgram_iff
    obtain ⟨hpc, hle⟩ := hon
    rw [State.textOffset_congr hparams] at hpc
    rw [hparams] at hle hend
    exact ⟨hpc, hle, hend⟩
  · rw [step_endOfProgram]
    exact State.textLeft_behind_text hshort (hpc.trans (s.textOffset_toNat _).symm)

/-! ## Where a program text may lie -/

/-- A refusal that neither the decoder nor a meaning names is one of the fetch. -/
theorem step_refused_iff_fetchBytes {s : State} {r : Refusal} (hdecoder : ∀ e, r ≠ .undecodable e)
    (hmeaning : r ≠ .notEncodable ∧ r ≠ .deviceMemory ∧ r ≠ .textOverlap) :
    step s = .refused r ↔ s.fetchBytes = .error r := by
  refine ⟨fun h => ?_, step_of_fetchBytes_error s r⟩
  obtain ⟨hrow, hdevice, htext⟩ := hmeaning
  obtain hfetch | ⟨e, he⟩ | he | he | he := step_refused s r h
  · exact hfetch
  · exact absurd he (hdecoder e)
  · exact absurd he hrow
  · exact absurd he hdevice
  · exact absurd he htext

theorem step_textCrossesTop (s : State) :
    step s = .refused .textCrossesTop ↔ s.textLeft ≠ 0 ∧ s.textInSpace = false := by
  rw [step_refused_iff_fetchBytes (by simp) (by simp), State.fetchBytes_error]
  simp

theorem step_textNotCanonical (s : State) :
    step s = .refused .textNotCanonical ↔ s.textLeft ≠ 0 ∧ s.textInSpace = true ∧ s.textCanonical = false := by
  rw [step_refused_iff_fetchBytes (by simp) (by simp), State.fetchBytes_error]
  simp

theorem linearBits_eq (m : Mode) : linearBits m = if m = .mode64 then 64 else 32 := by
  cases m <;> rfl

/-- The text crosses the top of the address space by its code offsets or by its linear addresses. -/
theorem State.textInSpace_eq_false (s : State) :
    s.textInSpace = false ↔
      2 ^ pcBits s.mode < (s.textOffset 0).toNat + s.params.textLen ∨
        2 ^ linearBits s.mode < (s.linear .cs (s.textOffset 0)).toNat + s.params.textLen := by
  simp only [State.textInSpace, Bool.and_eq_false_iff, decide_eq_false_iff_not, Nat.not_le]

/-- A span below `2^64` crosses the canonical boundary exactly when one of its addresses is not canonical. -/
theorem canonicalSpan_eq_false {k : LaBits} {n a : Nat} (hn : 0 < n) (h : a + n ≤ 2 ^ 64) :
    canonicalSpan k n a = false ↔ ∃ j, j < n ∧ ¬canonicalBits k (a + j) := by
  rw [← Bool.not_eq_true, canonicalSpan_iff k n a hn h]
  simp only [isCanonical_iff_canonicalBits, not_forall, exists_prop]

/-- A text that does not cross the top has a byte that is not canonical, by code offset or by linear address. -/
theorem State.textCanonical_eq_false {s : State} (hn : 0 < s.params.textLen) (hspace : s.textInSpace = true) :
    s.textCanonical = false ↔ s.mode = .mode64 ∧ ∃ k, k < s.params.textLen ∧
      (¬canonicalBits s.params.laBits ((s.textOffset 0).toNat + k) ∨
        ¬canonicalBits s.params.laBits ((s.linear .cs (s.textOffset 0)).toNat + k)) := by
  unfold State.textCanonical
  by_cases hm : s.mode = .mode64
  · simp only [State.textInSpace, Bool.and_eq_true, decide_eq_true_eq, hm, pcBits, linearBits] at hspace
    obtain ⟨hoffset, hlinear⟩ := hspace
    simp only [hm, ne_eq, not_true_eq_false, decide_false, Bool.false_or, Bool.and_eq_false_iff,
      canonicalSpan_eq_false hn hoffset, canonicalSpan_eq_false hn hlinear, true_and, and_or_left, exists_or]
  · simp [hm]

/-- Settles O56: the two refusals are those of the fetch, whose tests say where the text lies. -/
theorem textPlacementRefused : Obligations.TextPlacementRefused := by
  intro s hleft
  have hlen : 0 < s.params.textLen := by
    unfold State.textLeft at hleft
    omega
  dsimp only
  rw [← linearBits_eq, ← State.textInSpace_eq_false, step_textCrossesTop, step_textNotCanonical, Bool.not_eq_false]
  refine ⟨and_iff_right hleft, (and_iff_right hleft).trans (and_congr_right fun hspace => ?_)⟩
  exact State.textCanonical_eq_false hlen hspace

/-! ## Register views -/

/-- Only an 8-bit view starts above bit 0. -/
theorem viewOf_offset {z : OpSize} (h : z ≠ .b8) (c : BitVec 4) (r : Bool) : viewOf z c r = (c, 0) :=
  viewOf_low z c r (.inl h)

/-- The byte codes 4 to 7 without a REX byte are AH, CH, DH, BH (`10_state.md` R24). -/
theorem viewOf_high {c : BitVec 4} (h4 : 4 ≤ c.toNat) (h8 : c.toNat < 8) : viewOf .b8 c false = (c - 4, 8) :=
  if_pos ⟨rfl, rfl, h4, h8⟩

/-- What each bit of a register is after a write of a view: a bit of the value inside the view; outside it cleared by a
32-bit write in `Mode64` and kept by every other (`10_state.md` R21 to R24). -/
theorem mergeReg_getLsbD {m : Mode} {z : OpSize} {off : Nat} {old : Word64} {v : BitVec z.bits} {j : Nat} (hj : j < 64)
    (hoff : z ≠ .b8 → off = 0) :
    (mergeReg m z off old v).getLsbD j =
      if off ≤ j ∧ j < off + z.bits then v.getLsbD (j - off)
      else if z = .b32 ∧ m = .mode64 then false else old.getLsbD j := by
  unfold mergeReg
  by_cases hwhole : z = .b64 ∨ (z = .b32 ∧ m = .mode64)
  · have hzero : off = 0 := hoff (by rcases hwhole with rfl | ⟨rfl, _⟩ <;> decide)
    subst hzero
    rw [if_pos hwhole, BitVec.getLsbD_setWidth, decide_eq_true hj, Bool.true_and, Nat.zero_add, Nat.sub_zero]
    by_cases hin : j < z.bits
    · rw [if_pos ⟨Nat.zero_le j, hin⟩]
    · rw [if_neg fun h => hin h.2, BitVec.getLsbD_of_ge v j (by omega)]
      rcases hwhole with rfl | h32
      · exact absurd hj hin
      · rw [if_pos h32]
  · rw [if_neg hwhole, insertBits_getLsbD old off v j hj, if_neg fun h32 => hwhole (.inr h32)]

/-- A 64-bit write and a 32-bit write in `Mode64` set the whole register (`10_state.md` R21, R22). -/
theorem mergeReg_whole {m : Mode} {z : OpSize} (h : z = .b64 ∨ (z = .b32 ∧ m = .mode64)) (off : Nat) (old : Word64)
    (v : BitVec z.bits) : mergeReg m z off old v = v.setWidth 64 := if_pos h

section
variable {z : OpSize} {code g : BitVec 4} {rex : Bool} {lo : Nat} {s : State}

/-- A read of a view gives its bits. -/
theorem readReg_of_view (hview : viewOf z code rex = (g, lo)) :
    readReg z code rex s = (s.reg g).extractLsb' lo z.bits := by
  rw [readReg, hview]

/-- A write of a view changes the register it stands in and no other. -/
theorem writeReg_of_view (hview : viewOf z code rex = (g, lo)) (v : BitVec z.bits) (k : BitVec 4) :
    (writeReg z code rex v s).reg k = if k = g then mergeReg s.mode z lo (s.reg g) v else s.reg k := by
  by_cases hk : k = g
  · subst hk
    have hself := writeReg_reg_self z code rex v s
    rw [hview] at hself
    rw [if_pos rfl, hself]
  · rw [if_neg hk, writeReg_reg_ne z code rex v s k (by rwa [hview])]

theorem writeReg_whole (hview : viewOf z code rex = (g, lo)) (h : z = .b64 ∨ (z = .b32 ∧ s.mode = .mode64))
    (v : BitVec z.bits) (k : BitVec 4) :
    (writeReg z code rex v s).reg k = if k = g then v.setWidth 64 else s.reg k := by
  rw [writeReg_of_view hview, mergeReg_whole h]

/-- The bits of the registers after a write of a view. -/
theorem writeReg_getLsbD (hview : viewOf z code rex = (g, lo)) (v : BitVec z.bits) (k : BitVec 4) {j : Nat}
    (hj : j < 64) :
    ((writeReg z code rex v s).reg k).getLsbD j =
      if k = g ∧ lo ≤ j ∧ j < lo + z.bits then v.getLsbD (j - lo)
      else if k = g ∧ z = .b32 ∧ s.mode = .mode64 then false else (s.reg k).getLsbD j := by
  have hoff (hz : z ≠ .b8) : lo = 0 := congrArg Prod.snd (hview.symm.trans (viewOf_offset hz code rex))
  rw [writeReg_of_view hview]
  by_cases hk : k = g
  · subst hk
    simp only [if_pos, mergeReg_getLsbD hj hoff, true_and]
  · simp only [hk, if_false, false_and]

/-- A write that does not clear the upper half replaces exactly the bits of the view. -/
theorem writeReg_getLsbD_replace (hview : viewOf z code rex = (g, lo)) (hkeep : ¬(z = .b32 ∧ s.mode = .mode64))
    (v : BitVec z.bits) (k : BitVec 4) {j : Nat} (hj : j < 64) :
    ((writeReg z code rex v s).reg k).getLsbD j =
      if k = g ∧ lo ≤ j ∧ j < lo + z.bits then v.getLsbD (j - lo) else (s.reg k).getLsbD j := by
  rw [writeReg_getLsbD hview v k hj, if_neg (c := k = g ∧ z = .b32 ∧ _) fun h => hkeep h.2]

/-- The same for a view that starts at bit 0. -/
theorem writeReg_getLsbD_low (hview : viewOf z code rex = (g, 0)) (hkeep : ¬(z = .b32 ∧ s.mode = .mode64))
    (v : BitVec z.bits) (k : BitVec 4) {j : Nat} (hj : j < 64) :
    ((writeReg z code rex v s).reg k).getLsbD j =
      if k = g ∧ j < z.bits then v.getLsbD j else (s.reg k).getLsbD j := by
  simp only [writeReg_getLsbD_replace hview hkeep v k hj, Nat.zero_le, Nat.zero_add, Nat.sub_zero, true_and]

end

/-- Settles O38: the view is bits 31:0 and its write clears the upper half in `Mode64` only. -/
theorem view32 : Obligations.View32 := by
  intro s c rex v
  have hview : viewOf .b32 c rex = (c, 0) := viewOf_offset (by decide) c rex
  exact ⟨readReg_of_view hview, fun hm k => writeReg_whole hview (.inr ⟨rfl, hm⟩) v k,
    fun hm k j hj => writeReg_getLsbD_low hview (hm ·.2) v k hj⟩

/-- Settles O39: both views start at bit 0; the 64-bit one is the whole register. -/
theorem view64And16 : Obligations.View64And16 := by
  intro s c rex
  have hview64 : viewOf .b64 c rex = (c, 0) := viewOf_offset (by decide) c rex
  have hview16 : viewOf .b16 c rex = (c, 0) := viewOf_offset (by decide) c rex
  refine ⟨(readReg_of_view hview64).trans BitVec.extractLsb'_eq_self, readReg_of_view hview16, fun v k => ?_,
    fun v k j hj => writeReg_getLsbD_low hview16 (by simp) v k hj⟩
  exact (writeReg_whole hview64 (.inl rfl) v k).trans
    (congrArg (if k = c then · else s.reg k) (BitVec.setWidth_eq v))

/-- Settles O40: both kinds of codes name one view, and a write of it replaces its 8 bits. -/
theorem view8 : Obligations.View8 := by
  intro s c g rex lo hhigh hlow
  have hview : viewOf .b8 c rex = (g, lo) := by
    by_cases hcode : rex = false ∧ 4 ≤ c.toNat ∧ c.toNat < 8
    · obtain ⟨hg, rfl⟩ := hhigh hcode
      obtain ⟨rfl, h4, h8⟩ := hcode
      rw [viewOf_high h4 h8]
      exact congrArg (·, 8) (by bv_omega)
    · have hrest : rex = true ∨ c.toNat < 4 ∨ 8 ≤ c.toNat := by
        cases rex with
        | true => exact .inl rfl
        | false =>
          simp only [true_and] at hcode
          exact .inr (by omega)
      obtain ⟨rfl, rfl⟩ := hlow hrest
      exact viewOf_low _ _ _ (.inr hrest)
  exact ⟨readReg_of_view hview, fun v k j hj => writeReg_getLsbD_replace hview (by simp) v k hj⟩

/-! ## Frames -/

theorem commit_reg (f : Form) (s : State) (k : BitVec 4) :
    (commit f s).reg k = (writeDest f.size f.rex.isSome (destOf f s) (rotated f s).result s).reg k := by
  simp only [State.reg, commit_regs]

theorem destOf_reg {f : Form} {r : BitVec 3} (h : f.rm = .reg r) (s : State) :
    destOf f s = .reg (regCode f.rexB r) := by
  simp only [destOf, h]

theorem regCode_toNat : ∀ (ext : Bool) (low : BitVec 3), (regCode ext low).toNat = 8 * ext.toNat + low.toNat := by
  decide

/-- The view of a register destination: AH, CH, DH or BH for an 8-bit operand with `rm` from 4 on and no REX byte, else
the low bits of the register that REX.B and `rm` name (`10_state.md` R24; `30_encoding.md` R72). -/
theorem viewOf_regCode {f : Form} {r : BitVec 3} {c : BitVec 4} {lo : Nat}
    (hhigh : f.size = .b8 ∧ f.rex = none ∧ 4 ≤ r.toNat → c.toNat = r.toNat - 4 ∧ lo = 8)
    (hlow : ¬(f.size = .b8 ∧ f.rex = none ∧ 4 ≤ r.toNat) → c = regCode f.rexB r ∧ lo = 0) :
    viewOf f.size (regCode f.rexB r) f.rex.isSome = (c, lo) := by
  have hr := r.isLt
  have hcode (hrex : f.rex = none) : (regCode f.rexB r).toNat = r.toNat := by
    simp [regCode_toNat, Form.rexB, hrex]
  by_cases h : f.size = .b8 ∧ f.rex = none ∧ 4 ≤ r.toNat
  · obtain ⟨hc, rfl⟩ := hhigh h
    obtain ⟨hsize, hrex, h4⟩ := h
    have hnat := hcode hrex
    rw [hsize, hrex, Option.isSome_none, viewOf_high (by omega) (by omega)]
    exact congrArg (·, 8) (by bv_omega)
  · obtain ⟨rfl, rfl⟩ := hlow h
    refine viewOf_low _ _ _ ?_
    by_cases hsize : f.size = .b8
    · cases hrex : f.rex with
      | some x => exact .inr (.inl rfl)
      | none =>
        rw [hcode hrex]
        exact .inr (.inr (.inl (Nat.lt_of_not_le fun h4 => h ⟨hsize, hrex, h4⟩)))
    · exact .inl hsize

/-- Settles O29: the write-back writes one register view. -/
theorem registerFrame : Obligations.RegisterFrame := by
  intro i s t r hrm hexec
  obtain rfl := eq_commit_of_exec_next hexec
  intro f high c lo hhigh hlow
  have hview : viewOf f.size (regCode f.rexB r) f.rex.isSome = (c, lo) := viewOf_regCode hhigh hlow
  have hreg (k : BitVec 4) :
      (commit f s).reg k = (writeReg f.size (regCode f.rexB r) f.rex.isSome (rotated f s).result s).reg k := by
    rw [commit_reg, destOf_reg hrm, writeDest]
  refine ⟨fun k hk => ?_, fun j hj => ?_, ?_, commit_params f s, commit_sf f s, commit_zf f s, commit_af f s,
    commit_pf f s⟩
  · rw [hreg, writeReg_of_view hview, if_neg hk]
  · rw [hreg]
    rcases Nat.lt_or_ge j 64 with hj64 | hj64
    · rw [writeReg_getLsbD hview _ _ hj64, if_neg (by omega)]
      simp only [true_and]
    · simp only [BitVec.getLsbD_of_ge _ j hj64, ite_self]
  · rw [commit_mem, destOf_reg hrm]
    rfl

/-- Settles O30: the write-back stores to the locations of the access and nowhere else. -/
theorem memoryFrame : Obligations.MemoryFrame := by
  intro i s t x hdest hexec
  obtain rfl := eq_commit_of_exec_next hexec
  refine ⟨?_, fun a ha => ?_, ?_, commit_params _ _, commit_sf _ _, commit_zf _ _, commit_af _ _, commit_pf _ _⟩
  · rw [commit_regs, hdest]
    rfl
  · rw [commit_mem, hdest]
    exact writeDest_mem_read _ _ x _ s a ha
  · rw [State.accessPhys_length, destOf_mem _ s x hdest]

/-! ## Masked count 0 -/

/-- Masked count 0 performs no rotation step and changes no flag (`40_rotate_common.md` R107 to R109). -/
theorem rotate_maskedCount_zero {z : OpSize} {count : BitVec 8} (h : maskedCount z count = 0) (mn : Mnemonic)
    (d : BitVec z.bits) (c : Bool) : rotate mn z d c count = ⟨d, none, .unchanged⟩ := by
  have hcarry : carryCount z 0 = 0 := by cases z <;> rfl
  have hplain : plainCount z 0 = 0 := Nat.zero_mod _
  cases mn <;>
    simp [rotate, rcl, rcr, rol, ror, h, hcarry, hplain, rclLoop, rcrLoop, rolLoop, rorLoop, cfRule, ofRule]

/-- With masked count 0 the write-back rewrites the destination with its own value and moves `pc` (`40_rotate_common.md`
R107). -/
theorem commit_maskedCount_zero {f : Form} {s : State} (h : maskedCount f.size (countValue f.count s) = 0) :
    commit f s =
      (writeDest f.size f.rex.isSome (destOf f s) (readDest f.size f.rex.isSome (destOf f s) s) s).advance f.length := by
  rw [commit, rotated, rotate_maskedCount_zero h]
  rfl

/-- Rewriting a 32-bit register with its own value in `Mode64` clears its upper half (`10_state.md` R22). -/
theorem writeReg_readReg_b32 {z : OpSize} (hz : z = .b32) {s : State} (hm : s.mode = .mode64) (c : BitVec 4)
    (rex : Bool) : writeReg z c rex (readReg z c rex s) s = s.setReg c (((s.reg c).extractLsb' 0 32).setWidth 64) := by
  subst hz
  have hview : viewOf .b32 c rex = (c, 0) := viewOf_offset (by decide) c rex
  rw [readReg_of_view hview, writeReg, hview, mergeReg_whole (.inr ⟨rfl, hm⟩)]
  rfl

/-- A rotate of a register in `Mode64` without LOCK completes. -/
theorem exec_reg_mode64 {i : Instr} {s : State} {r : BitVec 3} (hrm : i.form.rm = .reg r) (hm : s.mode = .mode64)
    (hlock : i.form.lock = false) : exec i s = .next (commit i.form s) := by
  rw [exec_eq_execRotate, execRotate_next, destOf_reg hrm, hlock]
  exact ⟨by simp [existsInMode, hm], s.faultOf_reg _, rfl, rfl⟩

/-- Settles O36: the masked count leaves the value alone, and the 32-bit write clears the upper half. -/
theorem zeroCountClearsUpperHalf : Obligations.ZeroCountClearsUpperHalf := by
  intro i s r hrm hsize hm _ hlock hcount c
  have hmasked : maskedCount i.form.size (countValue i.form.count s) = 0 := by
    simpa [maskedCount_eq_countMod, countMod, hsize] using hcount
  rw [exec_reg_mode64 hrm hm hlock, commit_maskedCount_zero hmasked, destOf_reg hrm, readDest, writeDest,
    writeReg_readReg_b32 hsize hm]

/-! ## The flags register and the state after reset -/

/-- Settles O18: the image is a sum of distinct powers of two, one for each flag. -/
theorem flagsImage : Obligations.FlagsImage := by
  intro s
  unfold State.flagsImage
  generalize s.cf = cf, s.pf = pf, s.af = af, s.zf = zf, s.sf = sf, s.of = of
  revert cf pf af zf sf of
  decide

theorem State.reset_reg (c : BitVec 4) : State.reset.reg c = 0 := by
  simp [State.reg, State.reset]

/-- Settles O19: no program is loaded at reset, so nothing of a text is left. -/
theorem resetValues : Obligations.ResetValues := by
  refine ⟨State.reset_reg, rfl, rfl, rfl, fun a => Memory.read_nil a, ?_⟩
  rw [step_endOfProgram, State.textLeft_eq_zero]
  exact .inr le_rfl

end Sys2Proof.Machine
end

section
/-! PROOFS. The statements of `20_memory.md`: stores and reads of several bytes, where an access lies and which faults and
refusals it meets, that no run changes its program text, and that a step runs the instruction whose encoding lies at
`pc`. -/

namespace Sys2Proof.Machine

/-! ## Stores of several bytes -/

/-- The byte at the `k`-th location of a store to distinct locations is byte `k` of the value (`20_memory.md` R42, R45). -/
theorem Memory.read_writeList_getElem {m : Memory} {as : List Nat} (v : Nat) (hwf : m.wf = true) (hdistinct : as.Nodup)
    {k : Nat} (hk : k < as.length) : (m.writeList as v).read as[k] = BitVec.ofNat 8 (v / 256 ^ k) := by
  induction as generalizing m v k with
  | nil => exact absurd hk (Nat.not_lt_zero k)
  | cons a as ih =>
    obtain ⟨hout, hrest⟩ := List.nodup_cons.mp hdistinct
    cases k with
    | zero =>
      rw [Memory.writeList, List.getElem_cons_zero, Memory.read_writeList_of_not_mem _ _ _ _ hout,
        Memory.read_write_self m a _ hwf, Nat.pow_zero, Nat.div_one]
    | succ k =>
      rw [Memory.writeList, List.getElem_cons_succ, ih _ (Memory.write_wf m a _ hwf) hrest, Nat.div_div_eq_div_mul,
        Nat.pow_succ']

/-- What a store to distinct locations leaves there reads as the value, cut to their number of bytes (`20_memory.md` R44,
R45). -/
theorem Memory.readList_writeList {m : Memory} {as : List Nat} (v : Nat) (hwf : m.wf = true) (hdistinct : as.Nodup) :
    (m.writeList as v).readList as = v % 256 ^ as.length := by
  induction as generalizing m v with
  | nil => rw [Memory.readList, List.length_nil, Nat.pow_zero, Nat.mod_one]
  | cons a as ih =>
    obtain ⟨hout, hrest⟩ := List.nodup_cons.mp hdistinct
    rw [Memory.writeList, Memory.readList, ih _ (Memory.write_wf m a _ hwf) hrest,
      Memory.read_writeList_of_not_mem _ _ _ _ hout, Memory.read_write_self m a _ hwf, BitVec.toNat_ofNat,
      List.length_cons, Nat.pow_succ' (m := 256)]
    exact Nat.mod_mul.symm

/-- The byte `k` places behind the start of a store to consecutive locations, as a number. -/
theorem Memory.read_writeList_range' {m : Memory} (a v : Nat) {n k : Nat} (hwf : m.wf = true) (hk : k < n) :
    ((m.writeList (List.range' a n) v).read (a + k)).toNat = v / 256 ^ k % 256 := by
  have hbyte := Memory.read_writeList_getElem v hwf (List.nodup_range' (s := a) (n := n)) (k := k) (by simpa using hk)
  rw [List.getElem_range', Nat.one_mul] at hbyte
  rw [hbyte, BitVec.toNat_ofNat]

/-- Settles O41: consecutive locations are distinct, and the value has no more bytes than they are. -/
theorem littleEndian : Obligations.LittleEndian := by
  intro m a n v k hwf hv hk
  refine ⟨Memory.read_writeList_range' a v hwf hk, ?_⟩
  rw [Memory.readList_writeList v hwf List.nodup_range', List.length_range', Nat.mod_eq_of_lt hv]

/-! ## The linear address -/

theorem two_pow_linearBits_le (m : Mode) : 2 ^ linearBits m ≤ 2 ^ 64 :=
  Nat.pow_le_pow_right (by decide) (by cases m <;> decide)

/-- A linear address as a number (`20_memory.md` R47). -/
theorem State.linear_toNat (s : State) (g : Seg) (ea : Word64) :
    (s.linear g ea).toNat = ((s.seg g).base.toNat + ea.toNat) % 2 ^ linearBits s.mode := by
  rw [State.linear, BitVec.toNat_ofNat]
  exact Nat.mod_eq_of_lt (Nat.lt_of_lt_of_le (Nat.mod_lt _ (Nat.two_pow_pos _)) (two_pow_linearBits_le s.mode))

/-- Settles O42: the width of a linear address is that of the mode, and the default segments are flat. -/
theorem linearAddress : Obligations.LinearAddress := by
  refine ⟨fun s g ea => ?_, fun g => by cases g <;> rfl⟩
  rw [← linearBits_eq, State.linear_toNat]

/-! ## The program text along a run -/

/-- Where a code byte lies depends on the parameters only. -/
theorem State.fetchPhys_congr {s t : State} (h : t.params = s.params) (pc : Word64) : t.fetchPhys pc = s.fetchPhys pc := by
  cases s
  cases t
  subst h
  rfl

/-- The program text holds a location exactly when one of its bytes lies there (`20_memory.md` R58). -/
theorem State.inText_iff (s : State) (a : Nat) :
    s.inText a = true ↔ ∃ j, j < s.params.textLen ∧ s.fetchPhys (s.textOffset j) = some a := by
  simp [State.inText]

/-- An admitted destination is left by the write-back without a change to a byte of the program text (`20_memory.md`
R58). -/
theorem commit_mem_read_of_inText {f : Form} {s : State} (hadmitted : s.destRefusal (destOf f s) = none) {a : Nat}
    (ha : s.inText a = true) : (commit f s).mem.read a = s.mem.read a := by
  rw [commit_mem]
  cases hdest : destOf f s with
  | reg c => rfl
  | mem x =>
    rw [hdest, State.destRefusal_mem_none] at hadmitted
    refine writeDest_mem_read _ _ x _ s a fun hmem => ?_
    simp [(hadmitted a hmem).2] at ha

/-- A completed instruction leaves every byte of the program text as it is. -/
theorem exec_textByte {i : Instr} {s t : State} (h : exec i s = .next t) {j : Nat} (hj : j < s.params.textLen) :
    t.textByte j = s.textByte j := by
  rw [exec_eq_execRotate, execRotate_next] at h
  obtain ⟨_, _, hadmitted, rfl⟩ := h
  have hparams := commit_params i.form s
  rw [State.textByte, State.textByte, State.textOffset_congr hparams, State.fetchPhys_congr hparams]
  cases hbyte : s.fetchPhys (s.textOffset j) with
  | none => rfl
  | some a =>
    have ha : s.inText a = true := (s.inText_iff a).mpr ⟨j, hj, hbyte⟩
    rw [Option.map_some, Option.map_some, commit_mem_read_of_inText hadmitted ha]

/-- A completed step keeps the parameters and the program text. -/
theorem step_keeps_text {s t : State} (h : step s = .next t) :
    t.params = s.params ∧ ∀ j, j < s.params.textLen → t.textByte j = s.textByte j := by
  obtain ⟨i, _, hexec⟩ := (step_next s t).mp h
  refine ⟨?_, fun j hj => exec_textByte hexec hj⟩
  rw [eq_commit_of_exec_next hexec, commit_params]

/-- Settles O11: what each completed step keeps, a run keeps. -/
theorem runKeepsText : Obligations.RunKeepsText := by
  intro k s t hrun
  refine reaches_induction (P := fun u => u.params = s.params ∧ ∀ j, j < s.params.textLen → u.textByte j = s.textByte j)
    (fun u v hu hstep => ?_) hrun ⟨rfl, fun _ _ => rfl⟩
  obtain ⟨huparams, hutext⟩ := hu
  obtain ⟨hvparams, hvtext⟩ := step_keeps_text hstep
  refine ⟨hvparams.trans huparams, fun j hj => ?_⟩
  rw [hvtext j (by rwa [huparams]), hutext j hj]

/-! ## Faults and refusals of a memory destination -/

/-- A well-formed row exists in its mode (`30_encoding.md` R66, R91): outside `Mode64` it has no REX byte, and a 64-bit
operand has one. -/
theorem existsInMode_of_wf {i : Instr} {s : State} (h : i.wf s.mode = true) : existsInMode i.form s = true := by
  simp only [Instr.wf, Form.wf, Bool.and_eq_true] at h
  obtain ⟨⟨⟨⟨⟨_, hmode⟩, hsize⟩, _⟩, _⟩, _⟩ := h
  by_cases hm : s.mode = .mode64
  · simp [existsInMode, hm]
  · have hrex : i.form.rex = none := by simpa [rexModeOk, hm] using hmode
    have hwidth : i.form.size ≠ .b64 := fun hz => by simp [rexSizeOk, hz, hrex] at hsize
    simp [existsInMode, hrex, hwidth]

section
variable {i : Instr} {s : State} {x : Access}

/-- Without LOCK and under the default order the segment conditions are the first reported (`60_exceptions.md` R211). -/
theorem exec_segment_fault {e : Fault} (hwf : i.wf s.mode = true) (hlock : i.form.lock = false)
    (horder : s.params.faultOrder = FaultClass.defaultOrder) (hdest : destOf i.form s = .mem x)
    (hfault : (s.segCheck x).or (s.canonCheck x) = some e) : exec i s = .fault e := by
  rw [exec_eq_execRotate, execRotate_fault, State.faultOf_default _ _ _ horder, hlock, hdest]
  refine ⟨existsInMode_of_wf hwf, ?_⟩
  simp only [State.classFault, Bool.false_eq_true, if_false, Option.none_or, hfault, Option.some_or]

/-- A destination that passes its checks and is not admitted is refused. -/
theorem exec_dest_refused {r : Refusal} (hwf : i.wf s.mode = true) (hlock : i.form.lock = false)
    (hdest : destOf i.form s = .mem x) (hchecks : s.faultOf false (.mem x) = none)
    (hrefusal : s.destRefusal (.mem x) = some r) : exec i s = .refused r := by
  rw [exec_eq_execRotate, execRotate_refused, hlock, hdest]
  exact .inr ⟨existsInMode_of_wf hwf, hchecks, hrefusal⟩

end

/-- A destination that touches device memory is refused for that (`20_memory.md` R54). -/
theorem State.destRefusal_device {s : State} {x : Access} (h : ∃ a ∈ s.accessPhys x, s.inDevice a = true) :
    s.destRefusal (.mem x) = some .deviceMemory :=
  if_pos (List.any_eq_true.mpr h)

/-- A destination that touches the program text and no device memory is refused for that (`20_memory.md` R58). -/
theorem State.destRefusal_text {s : State} {x : Access} (hdevice : ∀ a ∈ s.accessPhys x, s.inDevice a = false)
    (htext : ∃ a ∈ s.accessPhys x, s.inText a = true) : s.destRefusal (.mem x) = some .textOverlap := by
  have hnone : (s.accessPhys x).any s.inDevice = false := by simpa using hdevice
  rw [State.destRefusal, hnone, if_neg Bool.false_ne_true, if_pos (List.any_eq_true.mpr htext)]

/-- Settles O55: the four checks pass, and the refusals follow in the order of the model. -/
theorem destinationRefused : Obligations.DestinationRefused := by
  intro i s x hwf hlock hdest hseg hcanon halign hpage
  have hchecks := (s.faultOf_mem_none x).mpr ⟨hseg, hcanon, halign, hpage⟩
  refine ⟨fun hdevice => exec_dest_refused hwf hlock hdest hchecks (State.destRefusal_device hdevice),
    fun hdevice htext => exec_dest_refused hwf hlock hdest hchecks (State.destRefusal_text hdevice ?_)⟩
  obtain ⟨a, ha, hj⟩ := htext
  exact ⟨a, ha, (s.inText_iff a).mpr hj⟩

/-! ## The segment conditions -/

/-- A segment that is not writable, where the mode looks at that (`60_exceptions.md` R201, R204, R205). -/
theorem State.segCheck_readOnly {s : State} {x : Access} (hmode : isProtected s.mode = true ∨ s.mode = .mode64)
    (hw : (s.seg x.seg).writable = false) : s.segCheck x = some (.gp (some 0)) := by
  simp [State.segCheck, hmode, hw]

/-- Beyond the limit outside `Mode64`, in a segment that may be written (`60_exceptions.md` R201 to R204, R210). -/
theorem State.segCheck_beyond {s : State} {x : Access} (hw : (s.seg x.seg).writable = true ∨ isProtected s.mode = false)
    (hmode : s.mode ≠ .mode64) (hbeyond : beyondLimit (s.seg x.seg) x = true) :
    s.segCheck x = some (segmentFault x.seg (segmentCode s.mode)) := by
  rcases hw with hw | hprot
  · simp [State.segCheck, hw, hmode, hbeyond]
  · simp [State.segCheck, hprot, hmode, hbeyond]

/-- A NULL selector in protected and compatibility mode, in a segment whose other conditions pass (`60_exceptions.md`
R201). -/
theorem State.segCheck_null {s : State} {x : Access} (hprot : isProtected s.mode = true)
    (hw : (s.seg x.seg).writable = true) (hwithin : beyondLimit (s.seg x.seg) x = false)
    (hsel : nullFaults x.seg = true) (hnull : (s.seg x.seg).null = true) : s.segCheck x = some (.gp (some 0)) := by
  simp [State.segCheck, hprot, hw, hwithin, hsel, hnull]

/-- In `Mode64` a writable segment passes `SegCheck`: there is no limit and no NULL selector there. -/
theorem State.segCheck_mode64 {s : State} {x : Access} (hmode : s.mode = .mode64) (hw : (s.seg x.seg).writable = true) :
    s.segCheck x = none := by
  simp [State.segCheck, hmode, hw, isProtected]

theorem isProtected_iff (m : Mode) : isProtected m = true ↔ m ∈ [Mode.prot32, .prot16, .compat32, .compat16] := by
  cases m <;> decide

theorem nullFaults_iff (g : Seg) : nullFaults g = true ↔ g ∈ [Seg.ds, .es, .fs, .gs] := by
  cases g <;> decide

theorem segmentCode_eq (m : Mode) : segmentCode m = if m = .real16 then none else some 0 := by
  cases m <;> rfl

/-- Settles O51: each clause is one branch of `SegCheck`, which is the first condition reported. -/
theorem segmentFaults : Obligations.SegmentFaults := by
  intro i s x hwf hlock horder hdest p prot beyond code
  have hbytes : i.form.size.bytes = x.n := by rw [destOf_mem i.form s x hdest]
  have hbeyond_iff : beyondLimit p x = true ↔ beyond := by rw [beyondLimit_iff, ← hbytes]
  have hprot_iff : isProtected s.mode = true ↔ prot := isProtected_iff s.mode
  have report {e : Fault} (h : s.segCheck x = some e) : exec i s = .fault e :=
    exec_segment_fault hwf hlock horder hdest (by rw [h, Option.some_or])
  refine ⟨fun hw hmode => report (State.segCheck_readOnly (hmode.imp_left hprot_iff.mpr) hw),
    fun hw hmode hbeyond => ?_, fun hprot hw hwithin hnull hsel => ?_⟩
  · have hw' : p.writable = true ∨ isProtected s.mode = false := by rwa [← Bool.not_eq_true, hprot_iff]
    rw [report (State.segCheck_beyond hw' hmode (hbeyond_iff.mpr hbeyond)), segmentFault, segmentCode_eq]
  · have hwithin' : beyondLimit p x = false := by rwa [← Bool.not_eq_true, hbeyond_iff]
    exact report (State.segCheck_null (hprot_iff.mpr hprot) hw hwithin' ((nullFaults_iff _).mpr hsel) hnull)

/-! ## The canonical check -/

/-- The canonical check by bits (`20_memory.md` R49). -/
theorem State.canonCheck_eq_none_iff (s : State) (x : Access) :
    s.canonCheck x = none ↔
      (s.mode = .mode64 → ∀ k, k < x.n → canonicalBits s.params.laBits ((s.accessLinear x).toNat + k)) := by
  simp [State.canonCheck, ← isCanonical_iff_canonicalBits]

/-- In `Mode64` a byte that is not canonical raises the fault of the segment (`20_memory.md` R49). -/
theorem State.canonCheck_stray {s : State} {x : Access} (hmode : s.mode = .mode64)
    (h : ∃ k, k < x.n ∧ ¬canonicalBits s.params.laBits ((s.accessLinear x).toNat + k)) :
    s.canonCheck x = some (segmentFault x.seg (some 0)) := by
  obtain ⟨k, hk, hstray⟩ := h
  cases hcheck : s.canonCheck x with
  | none => exact absurd ((s.canonCheck_eq_none_iff x).mp hcheck hmode k hk) hstray
  | some e =>
    obtain ⟨_, _, rfl⟩ := s.canonCheck_some x e hcheck
    rfl

/-- Settles O49: a writable segment passes `SegCheck` in `Mode64`, and the canonical check is next. -/
theorem canonicalFault : Obligations.CanonicalFault := by
  intro i s x hmode hwf hlock horder hdest hw
  have hbytes : i.form.size.bytes = x.n := by rw [destOf_mem i.form s x hdest]
  rw [hbytes]
  refine ⟨fun hstray => ?_, fun hall => (s.canonCheck_eq_none_iff x).mpr fun _ => hall⟩
  refine exec_segment_fault (hmode ▸ hwf) hlock horder hdest ?_
  rw [State.segCheck_mode64 hmode hw, Option.none_or]
  exact State.canonCheck_stray hmode hstray

/-! ## Memory destinations under the default parameters -/

/-- The linear address of a byte as a number (`20_memory.md` R41). -/
theorem State.byteAddr_toNat (s : State) (la : Word64) (k : Nat) :
    (s.byteAddr la k).toNat = (la.toNat + k) % 2 ^ linearBits s.mode := by
  rw [State.byteAddr, BitVec.toNat_ofNat]
  exact Nat.mod_eq_of_lt (Nat.lt_of_lt_of_le (Nat.mod_lt _ (Nat.two_pow_pos _)) (two_pow_linearBits_le s.mode))

/-- Under the identity an access that does not wrap lies at consecutive locations from its linear address on (`20_memory.md`
R44, R50). -/
theorem State.accessPhys_identity {s : State} {x : Access} (hidentity : s.mode = .real16 ∨ s.params.paging = none)
    (hfits : (s.accessLinear x).toNat + x.n ≤ 2 ^ linearBits s.mode) :
    s.accessPhys x = List.range' (s.accessLinear x).toNat x.n := by
  rw [State.accessPhys, State.accessBytes, List.map_map, List.range'_eq_map_range]
  refine List.map_congr_left fun k hk => ?_
  have hlt : (s.accessLinear x).toNat + k < 2 ^ linearBits s.mode := by
    have := List.mem_range.mp hk
    omega
  rw [Function.comp_apply, s.translate_identity _ true hidentity, Option.getD_some, State.byteAddr_toNat,
    Nat.mod_eq_of_lt hlt]

/-- Under the identity in `Mode64` with a flat code segment, a text that does not wrap holds no location outside its
extent. -/
theorem State.inText_extent {s : State} (hflat : s.seg .cs = .flat) (hpaging : s.params.paging = none)
    (hmode : s.mode = .mode64) (hspace : s.params.textStart.toNat + s.params.textLen ≤ 2 ^ 64) {a : Nat}
    (ha : s.inText a = true) : s.params.textStart.toNat ≤ a ∧ a < s.params.textStart.toNat + s.params.textLen := by
  obtain ⟨j, hj, hbyte⟩ := (s.inText_iff a).mp ha
  rw [State.fetchPhys, State.linear_flat_mode64 hflat hmode, s.translate_identity _ _ (.inr hpaging),
    State.textOffset_toNat, hmode, pcBits, Nat.mod_eq_of_lt (by omega), Option.some.injEq] at hbyte
  omega

/-- No location is device memory by default (`20_memory.md` R54). -/
theorem State.inDevice_defaultParams {s : State} (h : s.defaultParams) (a : Nat) : s.inDevice a = false := by
  have hdevices : s.params.devices = [] := congrArg Params.devices h
  rw [State.inDevice, hdevices, List.any_nil]

/-- Under the default parameters a memory destination without LOCK that passes the canonical check has no fault. -/
theorem State.faultOf_defaultParams_none {s : State} {x : Access} (h : s.defaultParams) (hcanon : s.canonCheck x = none) :
    s.faultOf false (.mem x) = none := by
  refine Option.eq_none_iff_forall_ne_some.mpr fun e he => ?_
  obtain ⟨x', hx, hfail⟩ := State.faultOf_defaultParams h he
  cases hx
  exact hfail hcanon

/-- Every address of the lower half is canonical (`20_memory.md` R49). -/
theorem canonicalBits_of_lt {k : LaBits} {a : Nat} (h : a < 2 ^ (laBitsNat k - 1)) : canonicalBits k a := by
  rw [← isCanonical_iff_canonicalBits, isCanonical, decide_eq_true h, Bool.true_or]

/-- A form that names no register has a memory destination. -/
theorem destOf_of_not_reg {f : Form} (h : ∀ r, f.rm ≠ .reg r) (s : State) :
    destOf f s = .mem ⟨segmentOf f, effectiveAddress f s, f.size.bytes⟩ := by
  cases hdest : destOf f s with
  | reg c =>
    obtain ⟨r, hr⟩ := (destOf_reg_iff f s).mp ⟨c, hdest⟩
    exact absurd hr (h r)
  | mem x => rw [destOf_mem f s x hdest]

section
variable {s : State} {x : Access}

theorem State.accessLinear_defaultParams (h : s.defaultParams) (hmode : s.mode = .mode64) : s.accessLinear x = x.ea :=
  State.linear_flat_mode64 (State.defaultParams_seg h x.seg) hmode x.ea

/-- By default in `Mode64` an access below the canonical boundary lies at the locations from its effective address on. -/
theorem State.accessPhys_defaultParams (h : s.defaultParams) (hmode : s.mode = .mode64)
    (hlow : x.ea.toNat + x.n ≤ 2 ^ 47) : s.accessPhys x = List.range' x.ea.toNat x.n := by
  have hlinear : s.accessLinear x = x.ea := State.accessLinear_defaultParams h hmode
  rw [State.accessPhys_identity (.inr (State.defaultParams_paging h)), hlinear]
  rw [hlinear, hmode, linearBits]
  exact hlow.trans (by decide)

theorem State.canonCheck_defaultParams (h : s.defaultParams) (hmode : s.mode = .mode64)
    (hlow : x.ea.toNat + x.n ≤ 2 ^ 47) : s.canonCheck x = none := by
  refine (s.canonCheck_eq_none_iff x).mpr fun _ k hk => canonicalBits_of_lt ?_
  rw [State.accessLinear_defaultParams h hmode, State.defaultParams_laBits h]
  exact Nat.lt_of_lt_of_le (Nat.add_lt_add_left hk _) hlow

/-- By default in `Mode64` an access below the canonical boundary and apart from the program text is admitted. -/
theorem State.destRefusal_defaultParams (h : s.defaultParams) (hmode : s.mode = .mode64)
    (hlow : x.ea.toNat + x.n ≤ 2 ^ 47) (hspace : s.params.textStart.toNat + s.params.textLen ≤ 2 ^ 64)
    (hapart : x.ea.toNat + x.n ≤ s.params.textStart.toNat ∨
      s.params.textStart.toNat + s.params.textLen ≤ x.ea.toNat) : s.destRefusal (.mem x) = none := by
  refine (s.destRefusal_mem_none x).mpr fun a ha => ⟨State.inDevice_defaultParams h a, ?_⟩
  rw [State.accessPhys_defaultParams h hmode hlow, List.mem_range'_1] at ha
  refine Bool.eq_false_iff.mpr fun htext => ?_
  have hextent := State.inText_extent (State.defaultParams_seg h .cs) (State.defaultParams_paging h) hmode hspace htext
  omega

end

/-- Settles O28: by default the locations of the destination are those from the effective address on, its checks pass, and
the write-back stores the result there. -/
theorem flatMemory : Obligations.FlatMemory := by
  intro i s hinv hdef hmode hwf hlock hrm f ea n hlow hspace hapart d res
  have hdest : destOf f s = .mem ⟨segmentOf f, effectiveAddress f s, n⟩ := destOf_of_not_reg hrm s
  have hphys : s.accessPhys ⟨segmentOf f, effectiveAddress f s, n⟩ = List.range' ea n :=
    State.accessPhys_defaultParams hdef hmode hlow
  have hresult : (rotated f s).result = res := by rw [rotated, hdest, readDest, hphys]
  have hmem : (commit f s).mem = s.mem.writeList (List.range' ea n) res.toNat := by
    rw [commit_mem, hdest, writeDest, hphys, hresult, State.setMem_mem]
  refine ⟨commit f s, ?_, ?_, fun k hk => ?_, fun a ha => ?_⟩
  · have hchecks : s.faultOf false (.mem ⟨segmentOf f, effectiveAddress f s, n⟩) = none :=
      State.faultOf_defaultParams_none hdef (State.canonCheck_defaultParams hdef hmode hlow)
    rw [exec_eq_execRotate, execRotate_next, hlock, hdest]
    exact ⟨existsInMode_of_wf (hmode ▸ hwf), hchecks, State.destRefusal_defaultParams hdef hmode hlow hspace hapart, rfl⟩
  · rw [commit_regs, hdest, writeDest, State.setMem_regs]
  · rw [hmem, Memory.read_writeList_range' ea _ hinv.1 hk]
  · rw [hmem]
    refine Memory.read_writeList_of_not_mem _ _ _ _ fun hin => ?_
    rw [List.mem_range'_1] at hin
    omega

end Sys2Proof.Machine

namespace Sys2Proof

/-! ## The parts of an encoding read back -/

theorem Instr.ofForm_form (i : Instr) : Instr.ofForm i.form = i := by
  cases i <;> rfl

@[simp] theorem legacyOf_legacyByte (p : Legacy) : legacyOf (legacyByte p) = some p := by
  cases p with
  | seg g => cases g <;> rfl
  | opSize | addrSize | lock | repne | rep => rfl

/-- The prefixes end at the first byte that is none (`30_encoding.md` R88 step 1). -/
theorem splitLegacy_append (l : List Legacy) {b : Byte} (bs : List Byte) (hb : legacyOf b = none) :
    splitLegacy (l.map legacyByte ++ b :: bs) = (l, b :: bs) := by
  induction l with
  | nil => simp [splitLegacy, hb]
  | cons p l ih => simp [splitLegacy, ih]

theorem hasRepeat_eq_false_iff (l : List Legacy) : hasRepeat l = false ↔ l.Nodup := by
  induction l with
  | nil => simp [hasRepeat]
  | cons p l ih => simp [hasRepeat, ih]

/-- The prefixes of a well-formed row by their parts (`30_encoding.md` R63). -/
theorem legacyOk_iff (m : Mode) (l : List Legacy) :
    legacyOk m l = true ↔ Legacy.repne ∉ l ∧ Legacy.rep ∉ l ∧ l.Nodup ∧ (l.filter isSegPrefix).length ≤ 1 ∧
      (m = .mode64 → ∀ g ∈ [Seg.cs, .ds, .es, .ss], Legacy.seg g ∉ l) := by
  have heq : legacyOk m l = (!l.contains .repne && !l.contains .rep && decide l.Nodup &&
      decide (l.countP isSegPrefix ≤ 1) &&
      (m != .mode64 || [Seg.cs, Seg.ds, Seg.es, Seg.ss].all fun g => !l.contains (.seg g))) := rfl
  rw [heq, List.countP_eq_length_filter]
  simp only [Bool.and_eq_true, Bool.or_eq_true, Bool.not_eq_true', bne_iff_ne, ne_eq, decide_eq_true_eq,
    decide_eq_false_iff_not, List.contains_eq_mem, List.all_eq_true, and_assoc, imp_iff_not_or (a := m = .mode64)]

theorem isIgnoredIn64_seg (g : Seg) : isIgnoredIn64 (.seg g) = true ↔ g ∈ [Seg.cs, .ds, .es, .ss] := by
  cases g <;> decide

/-- Admitted prefixes are not refused (`30_encoding.md` R63). -/
theorem legacyRefusal_of_legacyOk {m : Mode} {l : List Legacy} (h : legacyOk m l = true) : legacyRefusal m l = none := by
  obtain ⟨hrepne, hrep, hnodup, hone, h64⟩ := (legacyOk_iff m l).mp h
  have hnorep : l.any isRepPrefix = false := by
    refine List.any_eq_false.mpr fun p hp => ?_
    cases p with
    | repne => exact absurd hp hrepne
    | rep => exact absurd hp hrep
    | opSize | addrSize | seg _ | lock => exact Bool.false_ne_true
  have hadmitted : ¬(m = .mode64 ∧ l.any isIgnoredIn64 = true) := by
    rintro ⟨hm, hany⟩
    obtain ⟨p, hp, hignored⟩ := List.any_eq_true.mp hany
    cases p with
    | seg g => exact h64 hm g ((isIgnoredIn64_seg g).mp hignored) hp
    | opSize | addrSize | lock | repne | rep => exact Bool.false_ne_true hignored
  have hnorepeat := (hasRepeat_eq_false_iff l).mpr hnodup
  rw [legacyRefusal, hnorep, hnorepeat, if_neg Bool.false_ne_true, if_neg hadmitted, if_neg Bool.false_ne_true,
    if_neg (Nat.not_lt.mpr hone)]

@[simp] theorem rexOf_rexByte (r : Rex) : rexOf (rexByte r) = some r := by
  obtain ⟨w, r, x, b⟩ := r
  revert w r x b
  decide

theorem legacyOf_rexByte (r : Rex) : legacyOf (rexByte r) = none := by
  obtain ⟨w, r, x, b⟩ := r
  revert w r x b
  decide

theorem rexOf_opcodeByte (z : OpSize) (c : Count) : rexOf (opcodeByte z c) = none := by
  cases z <;> cases c <;> simp [opcodeByte, rexOf]

theorem legacyOf_opcodeByte (z : OpSize) (c : Count) : legacyOf (opcodeByte z c) = none := by
  cases z <;> cases c <;> rfl

/-- The count column of the opcode grid that a count operand stands in (`30_encoding.md` R67, R83). -/
def Count.kind : Count → CountKind
  | .one => .one
  | .cl => .cl
  | .imm _ => .imm

@[simp] theorem opcodeOf_opcodeByte (z : OpSize) (c : Count) :
    opcodeOf (opcodeByte z c) = some (decide (z ≠ .b8), c.kind) := by
  cases z <;> cases c <;> rfl

@[simp] theorem decodeCount_countBytes (c : Count) (rest : List Byte) :
    decodeCount c.kind (countBytes c ++ rest) = some (c, rest) := by
  cases c <;> rfl

@[simp] theorem mnemonicOf_digitOf (mn : Mnemonic) : mnemonicOf (digitOf mn) = some mn := by
  cases mn <;> rfl

/-! ## The fields of ModRM, SIB and displacement -/

theorem fields233_hi (hi : BitVec 2) (mid lo : BitVec 3) : (fields233 hi mid lo).extractLsb' 6 2 = hi := by
  revert hi mid lo
  decide

theorem fields233_mid (hi : BitVec 2) (mid lo : BitVec 3) : (fields233 hi mid lo).extractLsb' 3 3 = mid := by
  revert hi mid lo
  decide

theorem fields233_lo (hi : BitVec 2) (mid lo : BitVec 3) : (fields233 hi mid lo).extractLsb' 0 3 = lo := by
  revert hi mid lo
  decide

theorem take16_bytes16 (v : BitVec 16) (rest : List Byte) : take16 (bytes16 v ++ rest) = some (v, rest) := by
  have hv : v.extractLsb' 8 8 ++ v.extractLsb' 0 8 = v := by
    rw [BitVec.extractLsb'_append_extractLsb'_eq_extractLsb' (rfl : 8 = 0 + 8)]
    exact BitVec.extractLsb'_eq_self
  simp [take16, bytes16, hv]

theorem take32_bytes32 (v : BitVec 32) (rest : List Byte) : take32 (bytes32 v ++ rest) = some (v, rest) := by
  have hv : v.extractLsb' 24 8 ++ v.extractLsb' 16 8 ++ v.extractLsb' 8 8 ++ v.extractLsb' 0 8 = v := by
    rw [BitVec.extractLsb'_append_extractLsb'_eq_extractLsb' (rfl : 24 = 16 + 8),
      BitVec.extractLsb'_append_extractLsb'_eq_extractLsb' (rfl : 16 = 8 + 8),
      BitVec.extractLsb'_append_extractLsb'_eq_extractLsb' (rfl : 8 = 0 + 8)]
    exact BitVec.extractLsb'_eq_self
  simp [take32, bytes32, hv]

/-! ## The operand -/

/-- The forms of 16-bit addressing are those of the address size 16 (`30_encoding.md` R75, R79). -/
theorem uses16BitAddress_iff (m : Mode) (l : List Legacy) :
    uses16BitAddress m l = true ↔ addressSize m l = .a16 := by
  cases m <;> simp only [uses16BitAddress, addressSize, defaultAddressSize] <;> cases l.contains .addrSize <;> decide

section
variable {a : AddrSize}

theorem decodeRm_reg (d r : BitVec 3) (rest : List Byte) :
    decodeRm a (fields233 3 d r) rest = some (.reg r, rest) := by
  simp [decodeRm, fields233_hi, fields233_lo]

theorem decodeRm_16 {mod : BitVec 2} (hmod : mod ≠ 3) (d r : BitVec 3) (bs : List Byte) :
    decodeRm .a16 (fields233 mod d r) bs = decodeMem16 mod r bs := by
  simp only [decodeRm, fields233_hi, fields233_lo, if_neg hmod, if_true]

theorem decodeRm_wide {mod : BitVec 2} (ha : a ≠ .a16) (hmod : mod ≠ 3) (d r : BitVec 3) (bs : List Byte) :
    decodeRm a (fields233 mod d r) bs = decodeMem mod r bs := by
  simp only [decodeRm, fields233_hi, fields233_lo, if_neg hmod, if_neg ha]

/-- `rm` = 4 announces a SIB byte (`30_encoding.md` R77). -/
theorem decodeMem_sib (mod sc : BitVec 2) (ix b : BitVec 3) (bs : List Byte) :
    decodeMem mod 4 (fields233 sc ix b :: bs) =
      if mod = 0 then
        if b = 5 then (take32 bs).map fun q => (.memSibDisp sc ix q.1, q.2) else some (.memSib sc ix b .d0, bs)
      else if mod = 1 then (take8 bs).map fun q => (.memSib sc ix b (.d8 q.1), q.2)
      else (take32 bs).map fun q => (.memSib sc ix b (.d32 q.1), q.2) := by
  simp [decodeMem, decodeSib, fields233_hi, fields233_mid, fields233_lo]

end

/-- The bytes of an operand read back under the address size `a`: ModRM holds `/digit` in its `reg` field, and with the
bytes after it gives the operand (`30_encoding.md` R68, R69). -/
def Rm.ReadsBack (a : AddrSize) (d : BitVec 3) (x : Rm) : Prop :=
  ∃ modrm tail, encodeRm d x = modrm :: tail ∧ modrm.extractLsb' 3 3 = d ∧
    ∀ rest, decodeRm a modrm (tail ++ rest) = some (x, rest)

section
variable {a : AddrSize} {d : BitVec 3}

theorem Rm.readsBack_reg (r : BitVec 3) : (Rm.reg r).ReadsBack a d :=
  ⟨_, [], rfl, fields233_mid _ d r, fun rest => decodeRm_reg d r rest⟩

section
variable {x : Rm} {mod : BitVec 2} {lo : BitVec 3} {tail : List Byte}

/-- A memory operand of 16-bit addressing reads back when the bytes after ModRM do. -/
theorem Rm.readsBack_of_decodeMem16 (ha : a = .a16) (hmod : mod ≠ 3) (hencode : encodeRm d x = fields233 mod d lo :: tail)
    (htail : ∀ rest, decodeMem16 mod lo (tail ++ rest) = some (x, rest)) : x.ReadsBack a d := by
  subst ha
  exact ⟨_, tail, hencode, fields233_mid mod d lo, fun rest => (decodeRm_16 hmod d lo _).trans (htail rest)⟩

/-- A memory operand of 32- or 64-bit addressing reads back when the bytes after ModRM do. -/
theorem Rm.readsBack_of_decodeMem (ha : a ≠ .a16) (hmod : mod ≠ 3) (hencode : encodeRm d x = fields233 mod d lo :: tail)
    (htail : ∀ rest, decodeMem mod lo (tail ++ rest) = some (x, rest)) : x.ReadsBack a d :=
  ⟨_, tail, hencode, fields233_mid mod d lo, fun rest => (decodeRm_wide ha hmod d lo _).trans (htail rest)⟩

end

/-- 16-bit addressing with registers: `mod` gives the width of the displacement, and 6 without one would mean disp16 alone
(`30_encoding.md` R79). -/
theorem Rm.readsBack_mem16 {r : BitVec 3} {disp : Disp16} (ha : a = .a16) (hok : rmOk (.mem16 r disp) = true) :
    (Rm.mem16 r disp).ReadsBack a d := by
  cases disp with
  | d0 =>
    have h6 : ¬r = 6 := by simpa only [rmOk, bne_iff_ne] using hok
    exact Rm.readsBack_of_decodeMem16 ha (by decide) rfl fun rest => by
      rw [decodeMem16, if_pos rfl, if_neg h6, List.nil_append]
  | d8 v => exact Rm.readsBack_of_decodeMem16 ha (by decide) rfl fun rest => rfl
  | d16 v =>
    exact Rm.readsBack_of_decodeMem16 ha (by decide) rfl fun rest => by
      rw [decodeMem16, take16_bytes16]
      rfl

theorem Rm.readsBack_mem16Abs (ha : a = .a16) (v : BitVec 16) : (Rm.mem16Abs v).ReadsBack a d :=
  Rm.readsBack_of_decodeMem16 ha (by decide) rfl fun rest => by
    rw [decodeMem16, take16_bytes16]
    rfl

/-- A base without SIB byte: `rm` 4 would announce one, and 5 without displacement would mean disp32 alone
(`30_encoding.md` R76). -/
theorem Rm.readsBack_mem {r : BitVec 3} {disp : Disp32} (ha : a ≠ .a16) (hok : rmOk (.mem r disp) = true) :
    (Rm.mem r disp).ReadsBack a d := by
  simp only [rmOk, Bool.and_eq_true, Bool.or_eq_true, bne_iff_ne] at hok
  obtain ⟨h4, h5⟩ := hok
  cases disp with
  | d0 =>
    have h5 : ¬r = 5 := h5.resolve_right (by simp)
    exact Rm.readsBack_of_decodeMem ha (by decide) rfl fun rest => by
      simp only [decodeMem, if_neg h4, if_neg h5, if_true, List.nil_append]
  | d8 v =>
    exact Rm.readsBack_of_decodeMem ha (by decide) rfl fun rest => by
      simp only [decodeMem, if_neg h4]
      rfl
  | d32 v =>
    exact Rm.readsBack_of_decodeMem ha (by decide) rfl fun rest => by
      simp only [decodeMem, if_neg h4, take32_bytes32]
      rfl

/-- A SIB byte with a base: base 5 without displacement would mean no base (`30_encoding.md` R77). -/
theorem Rm.readsBack_memSib {sc : BitVec 2} {ix b : BitVec 3} {disp : Disp32} (ha : a ≠ .a16)
    (hok : rmOk (.memSib sc ix b disp) = true) : (Rm.memSib sc ix b disp).ReadsBack a d := by
  simp only [rmOk, Bool.or_eq_true, bne_iff_ne] at hok
  cases disp with
  | d0 =>
    have h5 : ¬b = 5 := hok.resolve_right (by simp)
    exact Rm.readsBack_of_decodeMem ha (by decide) rfl fun rest => by
      rw [List.cons_append, decodeMem_sib, if_pos rfl, if_neg h5, List.nil_append]
  | d8 v => exact Rm.readsBack_of_decodeMem ha (by decide) rfl fun rest => decodeMem_sib _ _ _ _ _
  | d32 v =>
    exact Rm.readsBack_of_decodeMem ha (by decide) rfl fun rest => by
      rw [List.cons_append, decodeMem_sib, take32_bytes32]
      rfl

theorem Rm.readsBack_memSibDisp (ha : a ≠ .a16) (sc : BitVec 2) (ix : BitVec 3) (v : BitVec 32) :
    (Rm.memSibDisp sc ix v).ReadsBack a d :=
  Rm.readsBack_of_decodeMem ha (by decide) rfl fun rest => by
    rw [List.cons_append, decodeMem_sib, take32_bytes32]
    rfl

theorem Rm.readsBack_memDisp32 (ha : a ≠ .a16) (v : BitVec 32) : (Rm.memDisp32 v).ReadsBack a d :=
  Rm.readsBack_of_decodeMem ha (by decide) rfl fun rest => by
    simp [decodeMem, take32_bytes32]

end

/-- The operand of a well-formed row reads back under the row's address size (`30_encoding.md` R76 to R79). -/
theorem rm_readsBack {m : Mode} {f : Form} (haddr : addrFormOk m f = true) (hok : rmOk f.rm = true) (d : BitVec 3) :
    f.rm.ReadsBack (addressSize m f.legacy) d := by
  obtain ⟨_, _, l, _, x, _⟩ := f
  have h16 : uses16BitAddress m l = true → addressSize m l = .a16 := (uses16BitAddress_iff m l).mp
  have hwide (h : (!uses16BitAddress m l) = true) : addressSize m l ≠ .a16 := fun ha => by
    rw [(uses16BitAddress_iff m l).mpr ha] at h
    cases h
  cases x with
  | reg r => exact Rm.readsBack_reg r
  | mem16 r disp => exact Rm.readsBack_mem16 (h16 haddr) hok
  | mem16Abs v => exact Rm.readsBack_mem16Abs (h16 haddr) v
  | mem r disp => exact Rm.readsBack_mem (hwide haddr) hok
  | memSib sc ix b disp => exact Rm.readsBack_memSib (hwide haddr) hok
  | memSibDisp sc ix v => exact Rm.readsBack_memSibDisp (hwide haddr) sc ix v
  | memDisp32 v => exact Rm.readsBack_memDisp32 (hwide haddr) v

/-! ## Decoding an encoding -/

/-- The REX byte of a mode that has one is split off in front of an opcode byte (`30_encoding.md` R64, R66). -/
theorem splitRex_rexBytes {m : Mode} {rex : Option Rex} (hmode : rex.isNone = true ∨ m = .mode64) {op : Byte}
    (hop : rexOf op = none) (bs : List Byte) : splitRex m (rexBytes rex ++ op :: bs) = (rex, op :: bs) := by
  cases rex with
  | none => simp [rexBytes, splitRex, hop]
  | some r =>
    have hm : m = .mode64 := by simpa using hmode
    simp [rexBytes, splitRex, hm]

/-- The operand size of a well-formed row is the one its prefixes and its opcode select (`30_encoding.md` R70). -/
theorem operandSize_of_wf {m : Mode} {f : Form} (hrex : rexSizeOk f = true) (hsize : opSizeOk m f = true) :
    operandSize m f.legacy f.rex (decide (f.size ≠ .b8)) = f.size := by
  obtain ⟨_, size, l, rex, _, _⟩ := f
  have hw (h : (rex.all fun r => !r.w) = true) : (rex.map Rex.w).getD false = false := by
    cases rex with
    | none => rfl
    | some r => simpa using h
  cases size with
  | b8 => rfl
  | b16 =>
    have hprefix : l.contains .opSize = defaultIs32 m := by simpa [opSizeOk] using hsize
    simp only [operandSize, hw hrex, hprefix]
    cases m <;> rfl
  | b32 =>
    have hprefix : l.contains .opSize = !defaultIs32 m := by simpa [opSizeOk] using hsize
    simp only [operandSize, hw hrex, hprefix]
    cases m <;> rfl
  | b64 =>
    cases rex with
    | none => cases hrex
    | some r =>
      have hr : r.w = true := by simpa [rexSizeOk] using hrex
      simp [operandSize, hr]

/-- The form of a well-formed row is decoded from its encoding, whatever bytes follow (`30_encoding.md` R60 to R88). -/
theorem decodeForm_encodeForm {m : Mode} {f : Form} (h : f.wf m = true) (rest : List Byte) :
    decodeForm m (encodeForm f ++ rest) = .ok (f, rest) := by
  simp only [Form.wf, Bool.and_eq_true] at h
  obtain ⟨⟨⟨⟨⟨hlegacy, hmode⟩, hrex⟩, hsize⟩, haddr⟩, hrm⟩ := h
  obtain ⟨modrm, tail, hmodrm, hdigit, hoperand⟩ := rm_readsBack haddr hrm (digitOf f.mn)
  have hbytes : encodeForm f ++ rest = f.legacy.map legacyByte ++ (rexBytes f.rex ++
      opcodeByte f.size f.count :: modrm :: (tail ++ (countBytes f.count ++ rest))) := by
    simp [encodeForm, hmodrm]
  have hprefixes : splitLegacy (encodeForm f ++ rest) = (f.legacy, rexBytes f.rex ++
      opcodeByte f.size f.count :: modrm :: (tail ++ (countBytes f.count ++ rest))) := by
    rw [hbytes]
    cases f.rex with
    | none => exact splitLegacy_append _ _ (legacyOf_opcodeByte _ _)
    | some r => exact splitLegacy_append _ _ (legacyOf_rexByte r)
  have hsplit := splitRex_rexBytes (m := m) (rex := f.rex) (by simpa [rexModeOk] using hmode)
    (rexOf_opcodeByte f.size f.count) (modrm :: (tail ++ (countBytes f.count ++ rest)))
  simp only [decodeForm, hprefixes, legacyRefusal_of_legacyOk hlegacy, hsplit, opcodeOf_opcodeByte, hdigit,
    mnemonicOf_digitOf, hoperand, decodeCount_countBytes, operandSize_of_wf hrex hsize]

/-- A well-formed instruction is decoded from its encoding, whatever bytes follow (`30_encoding.md` R60 to R88). -/
theorem decode_encode {m : Mode} {i : Instr} (h : i.wf m = true) (rest : List Byte) :
    decode m (encode i ++ rest) = .ok (i, rest) := by
  simp only [decode, encode, decodeForm_encodeForm h rest, Instr.ofForm_form]

/-! ## The length of an encoding -/

/-- Admitted prefixes are at most four: 66H, 67H, F0H and one segment override (`30_encoding.md` R63). -/
theorem legacy_length_le {m : Mode} {l : List Legacy} (h : legacyOk m l = true) : l.length ≤ 4 := by
  obtain ⟨hrepne, hrep, hnodup, hone, _⟩ := (legacyOk_iff m l).mp h
  have hother : (l.filter (!isSegPrefix ·)).length ≤ [Legacy.opSize, .addrSize, .lock].length := by
    refine (List.subperm_of_subset (hnodup.filter _) fun p hp => ?_).length_le
    obtain ⟨hmem, hnoseg⟩ := List.mem_filter.mp hp
    cases p with
    | repne => exact absurd hmem hrepne
    | rep => exact absurd hmem hrep
    | seg g => cases hnoseg
    | opSize | addrSize | lock => simp
  have hsum := List.length_eq_length_filter_add (l := l) isSegPrefix
  simp only [List.length_cons, List.length_nil] at hother
  omega

theorem extraLength_le (x : Rm) : extraLength x ≤ 5 := by
  cases x with
  | mem16 _ disp | mem _ disp | memSib _ _ _ disp => cases disp <;> simp [extraLength]
  | reg _ | mem16Abs _ | memSibDisp _ _ _ | memDisp32 _ => simp [extraLength]

/-- The length of a well-formed row (`30_encoding.md` R61; log entry 23). -/
theorem length_bounds {m : Mode} {f : Form} (h : f.wf m = true) : 2 ≤ f.length ∧ f.length ≤ 13 := by
  simp only [Form.wf, Bool.and_eq_true] at h
  obtain ⟨⟨⟨⟨⟨hlegacy, _⟩, _⟩, _⟩, _⟩, _⟩ := h
  have hprefixes := legacy_length_le hlegacy
  have hrex : (rexBytes f.rex).length ≤ 1 := by cases f.rex <;> simp [rexBytes]
  have hextra := extraLength_le f.rm
  have hcount : (countBytes f.count).length ≤ 1 := by cases f.count <;> simp [countBytes]
  rw [Form.length_eq]
  omega

end Sys2Proof

namespace Sys2Proof.Machine

/-! ## The instruction at `pc` -/

/-- Without paging every code byte is mapped, at its linear address through CS (`20_memory.md` R40). -/
theorem State.codeBytes_identity {s : State} (hpaging : s.params.paging = none) (n : Nat) :
    s.codeBytes n = some ((List.range n).map fun k => s.mem.read (s.linear .cs (s.pcPlus k)).toNat) := by
  simp only [State.codeBytes, State.fetchPhys, s.translate_identity _ _ (.inr hpaging), Option.map_some]
  exact List.mapM_pure

/-- Settles O14: the fetch takes the encoding and bytes after it, which decode to the instruction. -/
theorem stepRunsEncoded : Obligations.StepRunsEncoded := by
  intro s i hwf hpaging hspace hcanonical hleft hbytes
  obtain ⟨hmin, hmax⟩ := length_bounds hwf
  rw [← encode_length] at hmin hmax
  have hwindow : (encode i).length ≤ min s.textLeft maxFetch := by
    rw [maxFetch]
    omega
  have hprefix : encode i <+: (List.range (min s.textLeft maxFetch)).map fun k =>
      s.mem.read (s.linear .cs (s.pcPlus k)).toNat := by
    refine List.prefix_iff_getElem?.mpr fun k hk => ?_
    rw [← List.getElem?_eq_getElem hk, hbytes k hk, List.getElem?_map, List.getElem?_range (hk.trans_le hwindow),
      Option.map_some]
  obtain ⟨rest, hrest⟩ := hprefix
  refine stepRunsDecoded s (encode i ++ rest) rest i ?_ (decode_encode hwf rest)
  rw [State.fetchBytes_ok, State.codeBytes_identity hpaging, hrest]
  exact ⟨by omega, hspace, hcanonical, rfl⟩

end Sys2Proof.Machine
end

section
/-! PROOFS. The statements of `30_encoding.md`: that decoder and encoder agree, what the decoder refuses, the effective
address and the segment of a memory operand, and the LOCK prefix. -/

namespace Sys2Proof

/-! ## Decoding an encoding -/

/-- Settles O1: each part of the encoding reads back, as `decode_encode` says. -/
theorem decodeEncode : Obligations.DecodeEncode := fun _ _ rest hwf => decode_encode hwf rest

/-- Settles O3: the encoding is as long as its form, whose parts are bounded one by one. -/
theorem instructionLength : Obligations.InstructionLength := by
  intro m i hwf
  rw [encode_length]
  exact ⟨rfl, length_bounds hwf⟩

/-! ## The prefixes taken -/

theorem legacyByte_of_legacyOf {b : Byte} {p : Legacy} (h : legacyOf b = some p) : legacyByte p = b := by
  have hbytes : ∀ b : Byte, ∀ p ∈ legacyOf b, legacyByte p = b := by decide
  exact hbytes b p h

/-- The bytes of the prefixes taken and those left are the bytes given (`30_encoding.md` R88 step 1). -/
theorem splitLegacy_bytes (bs : List Byte) :
    (splitLegacy bs).1.map legacyByte ++ (splitLegacy bs).2 = bs := by
  induction bs with
  | nil => rfl
  | cons b bs ih =>
    rw [splitLegacy]
    split
    · rename_i p hp
      simp [ih, legacyByte_of_legacyOf hp]
    · rfl

theorem rexByte_of_rexOf {b : Byte} {r : Rex} (h : rexOf b = some r) : rexByte r = b := by
  have hbytes : ∀ b : Byte, ∀ r ∈ rexOf b, rexByte r = b := by decide
  exact hbytes b r h

/-- The REX byte taken and the bytes left are the bytes given (`30_encoding.md` R88 step 2). -/
theorem splitRex_bytes (m : Mode) (bs : List Byte) : rexBytes (splitRex m bs).1 ++ (splitRex m bs).2 = bs := by
  cases bs with
  | nil => rfl
  | cons b bs =>
    rw [splitRex]
    split
    · rename_i hrex
      obtain ⟨r, hr⟩ := Option.isSome_iff_exists.mp hrex.2
      simp [hr, rexBytes, rexByte_of_rexOf hr]
    · rfl

/-- A REX byte is taken in `Mode64` only (`30_encoding.md` R66). -/
theorem mode64_of_splitRex_isSome {m : Mode} {bs : List Byte} (h : (splitRex m bs).1.isSome = true) : m = .mode64 := by
  cases bs with
  | nil => cases h
  | cons b bs =>
    rw [splitRex] at h
    split at h
    · rename_i hrex
      exact hrex.1
    · cases h

/-- Prefixes that are not refused are admitted (`30_encoding.md` R63). -/
theorem legacyOk_of_legacyRefusal {m : Mode} {l : List Legacy} (h : legacyRefusal m l = none) : legacyOk m l = true := by
  unfold legacyRefusal at h
  split_ifs at h with hrep hignored hrepeat hseg
  have hnorep (p : Legacy) (hp : isRepPrefix p = true) : p ∉ l := fun hmem => hrep (List.any_eq_true.mpr ⟨p, hmem, hp⟩)
  refine (legacyOk_iff m l).mpr ⟨hnorep .repne rfl, hnorep .rep rfl, ?_, Nat.not_lt.mp hseg, fun hm g hg hmem => ?_⟩
  · exact (hasRepeat_eq_false_iff l).mp (Bool.eq_false_iff.mpr hrepeat)
  · exact hignored ⟨hm, List.any_eq_true.mpr ⟨_, hmem, (isIgnoredIn64_seg g).mpr hg⟩⟩

theorem legacyRefusal_eq_none_iff (m : Mode) (l : List Legacy) : legacyRefusal m l = none ↔ legacyOk m l = true :=
  ⟨legacyOk_of_legacyRefusal, legacyRefusal_of_legacyOk⟩

/-- An accepted byte sequence has admitted prefixes (`30_encoding.md` R63). -/
theorem decodeForm_ok_legacyOk {m : Mode} {bs rest : List Byte} {f : Form} (h : decodeForm m bs = .ok (f, rest)) :
    legacyOk m f.legacy = true := by
  rw [(decodeForm_ok h).1]
  unfold decodeForm at h
  dsimp only at h
  split at h
  · cases h
  · rename_i hnone
    exact legacyOk_of_legacyRefusal hnone

/-! ## The opcode, the size and the count taken -/

/-- The byte at a place of the opcode grid (`30_encoding.md` R67). -/
def gridByte : Bool → CountKind → Byte
  | false, .imm => 0xC0
  | true, .imm => 0xC1
  | false, .one => 0xD0
  | true, .one => 0xD1
  | false, .cl => 0xD2
  | true, .cl => 0xD3

theorem opcodeByte_eq_gridByte (z : OpSize) (c : Count) : opcodeByte z c = gridByte (decide (z ≠ .b8)) c.kind := by
  cases z <;> cases c <;> rfl

theorem gridByte_of_opcodeOf {op : Byte} {wide : Bool} {k : CountKind} (h : opcodeOf op = some (wide, k)) :
    gridByte wide k = op := by
  have hbytes : ∀ op : Byte, ∀ cell ∈ opcodeOf op, gridByte cell.1 cell.2 = op := by decide
  exact hbytes op (wide, k) h

/-- The size is 8 exactly for the opcodes of byte operands (`30_encoding.md` R67, R70). -/
theorem operandSize_ne_b8 (m : Mode) (l : List Legacy) (rex : Option Rex) (wide : Bool) :
    decide (operandSize m l rex wide ≠ .b8) = wide := by
  cases wide with
  | false => rfl
  | true =>
    unfold operandSize
    split_ifs with hnarrow
    · cases hnarrow
    · rfl
    · cases m <;> rfl
    · cases m <;> rfl

theorem digitOf_of_mnemonicOf {d : BitVec 3} {mn : Mnemonic} (h : mnemonicOf d = some mn) : digitOf mn = d := by
  have hdigits : ∀ d : BitVec 3, ∀ mn ∈ mnemonicOf d, digitOf mn = d := by decide
  exact hdigits d mn h

/-- The bytes above the lowest one. -/
theorem extractLsb'_append_byte {n k : Nat} (x : BitVec n) (b : Byte) :
    (x ++ b).extractLsb' (8 + k) 8 = x.extractLsb' k 8 := by
  rw [BitVec.extractLsb'_append_eq_of_le (Nat.le_add_right 8 k), Nat.add_sub_cancel_left]

theorem take16_bytes {bs rest : List Byte} {v : BitVec 16} (h : take16 bs = some (v, rest)) : bytes16 v ++ rest = bs := by
  unfold take16 at h
  split at h
  · rename_i a b _
    cases h
    have ha : (b ++ a).extractLsb' 0 8 = a := BitVec.extractLsb'_append_eq_right
    have hb : (b ++ a).extractLsb' 8 8 = b := BitVec.extractLsb'_append_eq_left
    rw [bytes16, ha, hb]
    rfl
  · cases h

theorem take32_bytes {bs rest : List Byte} {v : BitVec 32} (h : take32 bs = some (v, rest)) : bytes32 v ++ rest = bs := by
  unfold take32 at h
  split at h
  · rename_i a b c d _
    cases h
    have ha : (d ++ c ++ b ++ a).extractLsb' 0 8 = a := BitVec.extractLsb'_append_eq_right
    have hb : (d ++ c ++ b ++ a).extractLsb' 8 8 = b :=
      (extractLsb'_append_byte (k := 0) _ a).trans BitVec.extractLsb'_append_eq_right
    have hc : (d ++ c ++ b ++ a).extractLsb' 16 8 = c :=
      (extractLsb'_append_byte (k := 8) _ a).trans
        ((extractLsb'_append_byte (k := 0) _ b).trans BitVec.extractLsb'_append_eq_right)
    have hd : (d ++ c ++ b ++ a).extractLsb' 24 8 = d :=
      (extractLsb'_append_byte (k := 16) _ a).trans
        ((extractLsb'_append_byte (k := 8) _ b).trans
          ((extractLsb'_append_byte (k := 0) _ c).trans BitVec.extractLsb'_eq_self))
    rw [bytes32, ha, hb, hc, hd]
    rfl
  · cases h

theorem decodeCount_bytes {k : CountKind} {bs rest : List Byte} {c : Count} (h : decodeCount k bs = some (c, rest)) :
    c.kind = k ∧ countBytes c ++ rest = bs := by
  cases k with
  | one | cl =>
    cases h
    exact ⟨rfl, rfl⟩
  | imm =>
    obtain ⟨⟨v, r⟩, hv, ⟨⟩⟩ := Option.map_eq_some_iff.mp h
    cases bs with
    | nil => cases hv
    | cons b bs =>
      cases hv
      exact ⟨rfl, rfl⟩
/-! ## The operand taken -/

theorem fields233_extractLsb' (b : Byte) :
    fields233 (b.extractLsb' 6 2) (b.extractLsb' 3 3) (b.extractLsb' 0 3) = b := by
  revert b
  decide

/-- A value of `mod` that is none of 0, 1 and 3. -/
theorem mod_eq_two {mod : BitVec 2} (h3 : mod ≠ 3) (h0 : ¬mod = 0) (h1 : ¬mod = 1) : mod = 2 := by
  revert mod
  decide

/-- The forms of 16-bit addressing when `is16`, else those of 32- and 64-bit addressing; a register in both
(`30_encoding.md` R72, R76, R79). -/
def Rm.inClass (is16 : Bool) : Rm → Bool
  | .reg _ => true
  | .mem16 _ _ | .mem16Abs _ => is16
  | .mem _ _ | .memSib _ _ _ _ | .memSibDisp _ _ _ | .memDisp32 _ => !is16

theorem addrFormOk_eq_inClass (m : Mode) (f : Form) : addrFormOk m f = f.rm.inClass (uses16BitAddress m f.legacy) := by
  unfold addrFormOk
  cases f.rm <;> rfl

/-- The operand `x` is one of the class, no other form is meant by its fields, and its bytes with `/digit` `d`, followed by
`rest`, are `bytes`. -/
def Rm.TakenFrom (is16 : Bool) (d : BitVec 3) (x : Rm) (rest bytes : List Byte) : Prop :=
  x.inClass is16 = true ∧ rmOk x = true ∧ encodeRm d x ++ rest = bytes

section
variable {mod : BitVec 2} {rm : BitVec 3} {bs rest : List Byte} {x : Rm}

theorem take8_bytes {v : BitVec 8} (h : take8 bs = some (v, rest)) : v :: rest = bs := by
  cases bs with
  | nil => cases h
  | cons b bs =>
    cases h
    rfl

/-- The memory forms of 16-bit addressing are taken from their own bytes (`30_encoding.md` R79). -/
theorem decodeMem16_takenFrom (hmod : mod ≠ 3) (h : decodeMem16 mod rm bs = some (x, rest)) (d : BitVec 3) :
    x.TakenFrom true d rest (fields233 mod d rm :: bs) := by
  unfold decodeMem16 at h
  split_ifs at h with h0 h6 h1
  · obtain ⟨⟨v, r⟩, hv, ⟨⟩⟩ := Option.map_eq_some_iff.mp h
    subst h0 h6
    exact ⟨rfl, rfl, congrArg (_ :: ·) (take16_bytes hv)⟩
  · cases h
    subst h0
    exact ⟨rfl, bne_iff_ne.mpr h6, rfl⟩
  · obtain ⟨⟨v, r⟩, hv, ⟨⟩⟩ := Option.map_eq_some_iff.mp h
    subst h1
    exact ⟨rfl, rfl, congrArg (_ :: ·) (take8_bytes hv)⟩
  · obtain ⟨⟨v, r⟩, hv, ⟨⟩⟩ := Option.map_eq_some_iff.mp h
    obtain rfl := mod_eq_two hmod h0 h1
    exact ⟨rfl, rfl, congrArg (_ :: ·) (take16_bytes hv)⟩

/-- The forms with a SIB byte are taken from their own bytes (`30_encoding.md` R77). -/
theorem decodeSib_takenFrom {sib : Byte} (hmod : mod ≠ 3) (h : decodeSib mod sib bs = some (x, rest)) (d : BitVec 3) :
    x.TakenFrom false d rest (fields233 mod d 4 :: sib :: bs) := by
  rw [← fields233_extractLsb' sib]
  unfold decodeSib at h
  dsimp only at h
  generalize sib.extractLsb' 6 2 = scale, sib.extractLsb' 3 3 = index, sib.extractLsb' 0 3 = base at h ⊢
  split_ifs at h with h0 h5 h1
  · obtain ⟨⟨v, r⟩, hv, ⟨⟩⟩ := Option.map_eq_some_iff.mp h
    subst h0 h5
    exact ⟨rfl, rfl, congrArg (_ :: _ :: ·) (take32_bytes hv)⟩
  · cases h
    subst h0
    exact ⟨rfl, Bool.or_eq_true_iff.mpr (.inl (bne_iff_ne.mpr h5)), rfl⟩
  · obtain ⟨⟨v, r⟩, hv, ⟨⟩⟩ := Option.map_eq_some_iff.mp h
    subst h1
    exact ⟨rfl, Bool.or_eq_true_iff.mpr (.inr rfl), congrArg (_ :: _ :: ·) (take8_bytes hv)⟩
  · obtain ⟨⟨v, r⟩, hv, ⟨⟩⟩ := Option.map_eq_some_iff.mp h
    obtain rfl := mod_eq_two hmod h0 h1
    exact ⟨rfl, Bool.or_eq_true_iff.mpr (.inr rfl), congrArg (_ :: _ :: ·) (take32_bytes hv)⟩

theorem rmOk_mem {disp : Disp32} (h4 : ¬rm = 4) (h5 : ¬rm = 5 ∨ disp ≠ .d0) : rmOk (.mem rm disp) = true := by
  simp only [rmOk, Bool.and_eq_true, Bool.or_eq_true, bne_iff_ne]
  exact ⟨h4, h5⟩

/-- The memory forms of 32- and 64-bit addressing are taken from their own bytes (`30_encoding.md` R76). -/
theorem decodeMem_takenFrom (hmod : mod ≠ 3) (h : decodeMem mod rm bs = some (x, rest)) (d : BitVec 3) :
    x.TakenFrom false d rest (fields233 mod d rm :: bs) := by
  unfold decodeMem at h
  split_ifs at h with h4 h0 h5 h1
  · subst h4
    cases bs with
    | nil => cases h
    | cons sib bs => exact decodeSib_takenFrom hmod h d
  · obtain ⟨⟨v, r⟩, hv, ⟨⟩⟩ := Option.map_eq_some_iff.mp h
    subst h0 h5
    exact ⟨rfl, rfl, congrArg (_ :: ·) (take32_bytes hv)⟩
  · cases h
    subst h0
    exact ⟨rfl, rmOk_mem h4 (.inl h5), rfl⟩
  · obtain ⟨⟨v, r⟩, hv, ⟨⟩⟩ := Option.map_eq_some_iff.mp h
    subst h1
    exact ⟨rfl, rmOk_mem h4 (.inr (by simp)), congrArg (_ :: ·) (take8_bytes hv)⟩
  · obtain ⟨⟨v, r⟩, hv, ⟨⟩⟩ := Option.map_eq_some_iff.mp h
    obtain rfl := mod_eq_two hmod h0 h1
    exact ⟨rfl, rmOk_mem h4 (.inr (by simp)), congrArg (_ :: ·) (take32_bytes hv)⟩

/-- The operand taken is well-formed for the address size, and its encoding is ModRM and the bytes taken after it
(`30_encoding.md` R68 to R79). -/
theorem decodeRm_takenFrom {m : Mode} {l : List Legacy} {modrm : Byte}
    (h : decodeRm (addressSize m l) modrm bs = some (x, rest)) :
    x.TakenFrom (uses16BitAddress m l) (modrm.extractLsb' 3 3) rest (modrm :: bs) := by
  rw [← fields233_extractLsb' modrm, fields233_mid]
  unfold decodeRm at h
  dsimp only at h
  generalize modrm.extractLsb' 6 2 = mod, modrm.extractLsb' 0 3 = lo at h ⊢
  split_ifs at h with h3 h16
  · cases h
    subst h3
    exact ⟨rfl, rfl, rfl⟩
  · rw [(uses16BitAddress_iff m l).mpr h16]
    exact decodeMem16_takenFrom h3 h _
  · rw [Bool.eq_false_iff.mpr fun h => h16 ((uses16BitAddress_iff m l).mp h)]
    exact decodeMem_takenFrom h3 h _

end

/-! ## Encoding what is decoded -/

/-- What the prefixes and the opcode can select as operand size (`30_encoding.md` R70). -/
theorem operandSize_cases (m : Mode) (l : List Legacy) (rex : Option Rex) (wide : Bool) :
    operandSize m l rex wide = .b8 ∨
      (operandSize m l rex wide = .b64 ∧ (rex.map Rex.w).getD false = true) ∨
      (operandSize m l rex wide = .b16 ∧ (rex.map Rex.w).getD false = false ∧ l.contains .opSize = defaultIs32 m) ∨
      (operandSize m l rex wide = .b32 ∧ (rex.map Rex.w).getD false = false ∧ l.contains .opSize = !defaultIs32 m) := by
  cases wide with
  | false => exact .inl rfl
  | true =>
    unfold operandSize
    generalize (rex.map Rex.w).getD false = w, l.contains Legacy.opSize = p
    revert w p
    cases m <;> decide

/-- The size that the prefixes and the opcode select admits them (`30_encoding.md` R65, R70). -/
theorem sizeOk_of_operandSize {m : Mode} {f : Form} {wide : Bool} (h : f.size = operandSize m f.legacy f.rex wide) :
    rexSizeOk f = true ∧ opSizeOk m f = true := by
  have hclear (hw : (f.rex.map Rex.w).getD false = false) : (f.rex.all fun r => !r.w) = true := by
    cases hrex : f.rex with
    | none => rfl
    | some r => simpa [hrex] using hw
  have hset (hw : (f.rex.map Rex.w).getD false = true) : (f.rex.any fun r => r.w) = true := by
    cases hrex : f.rex with
    | none => simp [hrex] at hw
    | some r => simpa [hrex] using hw
  have hcases := operandSize_cases m f.legacy f.rex wide
  rw [← h] at hcases
  unfold rexSizeOk opSizeOk
  obtain hz | ⟨hz, hw⟩ | ⟨hz, hw, hprefix⟩ | ⟨hz, hw, hprefix⟩ := hcases
  · simp only [hz, and_self]
  · simp only [hz, hset hw, and_self]
  · simp only [hz, hclear hw, hprefix, beq_self_eq_true, and_self]
  · simp only [hz, hclear hw, hprefix, beq_self_eq_true, and_self]

/-- What the decoding procedure accepts is a well-formed form and its encoding (`30_encoding.md` R60 to R89). -/
theorem decodeForm_wf_bytes {m : Mode} {bs rest : List Byte} {f : Form} (h : decodeForm m bs = .ok (f, rest)) :
    f.wf m = true ∧ encodeForm f ++ rest = bs := by
  obtain ⟨hlegacy, hrex, op, modrm, wide, kind, afterModrm, afterRm, hop, hcell, hsize, hmn, hrm, hcount⟩ :=
    decodeForm_ok h
  obtain ⟨rfl, hcountBytes⟩ := decodeCount_bytes hcount
  obtain ⟨hclass, hrmOk, hrmBytes⟩ := decodeRm_takenFrom hrm
  have hmode : rexModeOk m f = true := by
    cases hpresent : f.rex with
    | none => simp [rexModeOk, hpresent]
    | some r =>
      have hm : m = .mode64 := mode64_of_splitRex_isSome (bs := (splitLegacy bs).2) (by rw [← hrex, hpresent]; rfl)
      simp [rexModeOk, hm]
  have hopByte : opcodeByte f.size f.count = op := by
    rw [opcodeByte_eq_gridByte, hsize, operandSize_ne_b8]
    exact gridByte_of_opcodeOf hcell
  obtain ⟨hrexSize, hopSize⟩ := sizeOk_of_operandSize hsize
  refine ⟨?_, ?_⟩
  · rw [Form.wf, decodeForm_ok_legacyOk h, hmode, hrexSize, hopSize, addrFormOk_eq_inClass, hclass, hrmOk]
    rfl
  · calc encodeForm f ++ rest
        = f.legacy.map legacyByte ++ (rexBytes f.rex ++
            op :: (encodeRm (modrm.extractLsb' 3 3) f.rm ++ (countBytes f.count ++ rest))) := by
          simp [encodeForm, hopByte, digitOf_of_mnemonicOf hmn]
      _ = f.legacy.map legacyByte ++ (rexBytes f.rex ++ op :: modrm :: afterModrm) := by rw [hcountBytes, hrmBytes]
      _ = bs := by rw [← hop, hrex, splitRex_bytes, hlegacy, splitLegacy_bytes]

/-- A well-formed 64-bit form has a REX byte (`30_encoding.md` R65). -/
theorem rex_isSome_of_wf {m : Mode} {f : Form} (h : f.wf m = true) (hz : f.size = .b64) : f.rex.isSome = true := by
  simp only [Form.wf, Bool.and_eq_true] at h
  obtain ⟨⟨⟨⟨⟨_, _⟩, hsize⟩, _⟩, _⟩, _⟩ := h
  cases hrex : f.rex with
  | none => simp [rexSizeOk, hz, hrex] at hsize
  | some r => rfl

/-- Settles O2: each part of the decoding procedure takes the bytes that encode its part of the form. -/
theorem encodeDecode : Obligations.EncodeDecode := by
  intro m bs rest i h
  unfold decode at h
  split at h
  · rename_i f r hform
    cases h
    obtain ⟨hwf, hbytes⟩ := decodeForm_wf_bytes hform
    have hrow : (Instr.ofForm f).form = f := ofForm_form (rex_isSome_of_wf hwf)
    rw [Instr.wf, encode, hrow]
    exact ⟨hwf, hbytes⟩
  · cases h

end Sys2Proof

namespace Sys2Proof

/-! ## What the decoder refuses -/

theorem splitLegacy_prefixes (l : List Legacy) (rest : List Byte) :
    splitLegacy (l.map legacyByte ++ rest) = (l ++ (splitLegacy rest).1, (splitLegacy rest).2) := by
  induction l with
  | nil => rfl
  | cons p l ih => simp [splitLegacy, ih]

/-- Admitted prefixes are admitted without the last of them (`30_encoding.md` R63). -/
theorem legacyOk_of_append {m : Mode} {l l' : List Legacy} (h : legacyOk m (l ++ l') = true) : legacyOk m l = true := by
  have hsub : l.Sublist (l ++ l') := List.sublist_append_left l l'
  obtain ⟨hrepne, hrep, hnodup, hone, h64⟩ := (legacyOk_iff m _).mp h
  exact (legacyOk_iff m l).mpr ⟨(hrepne <| hsub.subset ·), (hrep <| hsub.subset ·), hnodup.sublist hsub,
    (hsub.filter _).length_le.trans hone, fun hm g hg hmem => h64 hm g hg (hsub.subset hmem)⟩

/-- The prefixes that are not admitted are the first reason to refuse (`30_encoding.md` R63; log entry 23). -/
theorem decode_of_legacyRefusal {m : Mode} {bs : List Byte} {e : DecodeRefusal}
    (h : legacyRefusal m (splitLegacy bs).1 = some e) : decode m bs = .error e := by
  simp only [decode, decodeForm, h]

theorem legacyRefusal_rep {m : Mode} {l : List Legacy} (h : l.any isRepPrefix = true) :
    legacyRefusal m l = some .repPrefix := by
  rw [legacyRefusal, if_pos h]

/-- Settles O6: more prefixes do not mend a list that is not admitted. -/
theorem prefixesRefused : Obligations.PrefixesRefused := by
  intro m l rest hbad
  have hsplit := splitLegacy_prefixes l rest
  refine ⟨?_, fun hrep => decode_of_legacyRefusal (legacyRefusal_rep ?_)⟩
  · cases hrefusal : legacyRefusal m (splitLegacy (l.map legacyByte ++ rest)).1 with
    | none =>
      rw [hsplit, legacyRefusal_eq_none_iff] at hrefusal
      simp [legacyOk_of_append hrefusal] at hbad
    | some e => exact ⟨e, decode_of_legacyRefusal hrefusal⟩
  · rw [hsplit, List.any_append, Bool.or_eq_true, List.any_eq_true]
    exact .inl (hrep.elim (fun h => ⟨.rep, h, rfl⟩) (fun h => ⟨.repne, h, rfl⟩))

/-- The bytes of `30_encoding.md` R62. -/
theorem legacyOf_eq_none_iff (b : Byte) :
    legacyOf b = none ↔ b.toNat ∉ [0x26, 0x2E, 0x36, 0x3E, 0x64, 0x65, 0x66, 0x67, 0xF0, 0xF2, 0xF3] := by
  revert b
  decide

/-- The REX bytes are 40H to 4FH (`30_encoding.md` R64). -/
theorem rexOf_eq_none_iff (b : Byte) : rexOf b = none ↔ b.toNat / 16 ≠ 4 := by
  revert b
  decide

/-- The opcode bytes of `30_encoding.md` R67. -/
theorem opcodeOf_eq_none_iff (b : Byte) : opcodeOf b = none ↔ b.toNat ∉ [0xC0, 0xC1, 0xD0, 0xD1, 0xD2, 0xD3] := by
  revert b
  decide

theorem legacyOf_gridByte (wide : Bool) (k : CountKind) : legacyOf (gridByte wide k) = none := by
  cases wide <;> cases k <;> rfl

theorem rexOf_gridByte (wide : Bool) (k : CountKind) : rexOf (gridByte wide k) = none := by
  cases wide <;> cases k <;> decide

theorem mnemonicOf_eq_none_iff (d : BitVec 3) : mnemonicOf d = none ↔ 4 ≤ d.toNat := by
  revert d
  decide

section
variable {m : Mode} {l : List Legacy} {rex : Option Rex} {op : Byte}

/-- After admitted prefixes the next byte is taken as the opcode, when it is none of the bytes of R62 and in `Mode64` no REX
byte, or stands after a REX byte (`30_encoding.md` R88 steps 1 to 3). -/
theorem split_prefixes (l : List Legacy) (hrex : rex.isSome = true → m = .mode64)
    (hop : rex = none → legacyOf op = none ∧ (m = .mode64 → rexOf op = none)) (rest : List Byte) :
    ∃ bs, splitLegacy (l.map legacyByte ++ rexBytes rex ++ op :: rest) = (l, bs) ∧ splitRex m bs = (rex, op :: rest) := by
  rw [List.append_assoc]
  cases rex with
  | none =>
    obtain ⟨hnone, hnorex⟩ := hop rfl
    refine ⟨_, splitLegacy_append l rest hnone, if_neg ?_⟩
    rintro ⟨hm, hsome⟩
    simp [hnorex hm] at hsome
  | some r =>
    refine ⟨_, splitLegacy_append l (op :: rest) (legacyOf_rexByte r), ?_⟩
    rw [splitRex, rexOf_rexByte, if_pos ⟨hrex rfl, rfl⟩]

/-- After admitted prefixes a byte outside the opcode grid is refused (`30_encoding.md` R88 step 3). -/
theorem decode_notARotate (hl : legacyOk m l = true) (hrex : rex.isSome = true → m = .mode64)
    (hop : rex = none → legacyOf op = none ∧ (m = .mode64 → rexOf op = none)) (hcell : opcodeOf op = none)
    (rest : List Byte) : decode m (l.map legacyByte ++ rexBytes rex ++ op :: rest) = .error .notARotate := by
  obtain ⟨bs, hlegacy, hsplit⟩ := split_prefixes l hrex hop rest
  simp only [decode, decodeForm, hlegacy, legacyRefusal_of_legacyOk hl, hsplit, hcell]

/-- After admitted prefixes and an opcode of the grid, a `reg` field that names no rotate is refused (`30_encoding.md`
R92). -/
theorem decode_shiftGroup {modrm : Byte} {cell : Bool × CountKind} (hl : legacyOk m l = true)
    (hrex : rex.isSome = true → m = .mode64)
    (hop : rex = none → legacyOf op = none ∧ (m = .mode64 → rexOf op = none)) (hcell : opcodeOf op = some cell)
    (hmn : mnemonicOf (modrm.extractLsb' 3 3) = none) (rest : List Byte) :
    decode m (l.map legacyByte ++ rexBytes rex ++ op :: modrm :: rest) = .error .shiftGroup := by
  obtain ⟨bs, hlegacy, hsplit⟩ := split_prefixes l hrex hop (modrm :: rest)
  simp only [decode, decodeForm, hlegacy, legacyRefusal_of_legacyOk hl, hsplit, hcell, hmn]

end

/-- Settles O5: the byte is at the opcode's place and not in the grid. -/
theorem notARotateRefused : Obligations.NotARotateRefused := by
  intro m l rex op rest hl hrex hop hfree
  refine decode_notARotate hl hrex (fun hnone => ?_) ((opcodeOf_eq_none_iff op).mpr hop) rest
  obtain ⟨hprefix, h64⟩ := hfree hnone
  exact ⟨(legacyOf_eq_none_iff op).mpr hprefix, fun hm => (rexOf_eq_none_iff op).mpr (h64 hm)⟩

/-- Settles O4: the opcode byte is at the opcode's place, and the `reg` field is bits 5:3 of ModRM. -/
theorem shiftGroupRefused : Obligations.ShiftGroupRefused := by
  intro m l rex op modrm rest hl hrex hop hreg
  obtain ⟨cell, hcell⟩ : ∃ cell, opcodeOf op = some cell :=
    Option.ne_none_iff_exists'.mp fun hnone => (opcodeOf_eq_none_iff op).mp hnone hop
  obtain rfl : gridByte cell.1 cell.2 = op := gridByte_of_opcodeOf hcell
  refine decode_shiftGroup hl hrex (fun _ => ⟨legacyOf_gridByte _ _, fun _ => rexOf_gridByte _ _⟩) hcell
    ((mnemonicOf_eq_none_iff _).mpr ?_) rest
  rw [BitVec.extractLsb'_toNat, Nat.shiftRight_eq_div_pow]
  exact hreg

end Sys2Proof

namespace Sys2Proof.Machine

/-- Settles O8: what decodes is well-formed in the mode, so its row exists there. -/
theorem notEncodableOutside64 : Obligations.NotEncodableOutside64 := by
  intro i s hmode hrow
  have habsent : existsInMode i.form s = false := by
    rcases hrow with hrex | hsize
    · simp [existsInMode, hmode, Option.isSome_iff_ne_none.mp hrex]
    · simp [existsInMode, hmode, hsize]
  refine ⟨?_, fun bs rest hdecode => ?_⟩
  · rw [exec_eq_execRotate, execRotate_refused]
    exact .inl ⟨habsent, rfl⟩
  · have hwf : i.wf s.mode = true := (encodeDecode s.mode bs rest i hdecode).1
    simp [existsInMode_of_wf hwf] at habsent

/-! ## LOCK -/

/-- LOCK applies the `#UD` class (`60_exceptions.md` R206). -/
theorem State.faultOf_lock_ne_none (s : State) (d : Dest) : s.faultOf true d ≠ none := fun h =>
  Option.some_ne_none _ ((s.faultOf_none true d).mp h .ud)

/-- LOCK with a register destination has no other fault beside it (`30_encoding.md` R90). -/
theorem State.faultOf_lock_reg (s : State) (c : BitVec 4) : s.faultOf true (.reg c) = some .ud := by
  obtain ⟨e, he⟩ := Option.ne_none_iff_exists'.mp (s.faultOf_lock_ne_none (.reg c))
  obtain ⟨k, hk⟩ := s.faultOf_some true (.reg c) e he
  rw [he, ← hk]
  cases k with
  | ud => rfl
  | segment | alignment | page => cases hk

/-- Under the default order `#UD` comes first (`60_exceptions.md` R211). -/
theorem State.faultOf_lock_default {s : State} (h : s.params.faultOrder = FaultClass.defaultOrder) (d : Dest) :
    s.faultOf true d = some .ud := by
  rw [State.faultOf_default s true d h]
  rfl

/-- Settles O47: the row exists, and `#UD` is one of the classes that apply, the only one for a register. -/
theorem lockFaults : Obligations.LockFaults := by
  intro i s hwf hlock
  have hfault {e : Fault} (h : s.faultOf true (destOf i.form s) = some e) : exec i s = .fault e := by
    rw [exec_eq_execRotate, execRotate_fault, hlock]
    exact ⟨existsInMode_of_wf hwf, h⟩
  refine ⟨?_, ?_⟩
  · obtain ⟨e, he⟩ := Option.ne_none_iff_exists'.mp (s.faultOf_lock_ne_none (destOf i.form s))
    exact ⟨e, hfault he⟩
  · rintro (⟨r, hr⟩ | horder)
    · exact hfault (destOf_reg hr s ▸ s.faultOf_lock_reg _)
    · exact hfault (State.faultOf_lock_default horder _)

/-! ## The segment of a memory operand -/

/-- The override looks at the segment overrides only (`30_encoding.md` R80). -/
theorem segOverride_eq_filter (l : List Legacy) : segOverride l = segOverride (l.filter isSegPrefix) := by
  induction l with
  | nil => rfl
  | cons p l ih =>
    cases p with
    | seg g => rfl
    | opSize | addrSize | lock | repne | rep => exact ih

/-- Only the codes 4 and 5 reached without a REX bit select SS (`30_encoding.md` R80). -/
theorem baseSegment_regCode (ext : Bool) (b : BitVec 3) :
    baseSegment (regCode ext b) = if ext = false ∧ (b = 4 ∨ b = 5) then .ss else .ds := by
  revert ext b
  decide

/-- 16-bit addressing goes through SS where it uses BP (`30_encoding.md` R79). -/
theorem defaultSegment_mem16 {f : Form} {rm : BitVec 3} {d : Disp16} (h : f.rm = .mem16 rm d) :
    defaultSegment f = if rm.toNat ∈ [2, 3, 6] then .ss else .ds := by
  have hcodes : ∀ rm : BitVec 3, (rm = 2 ∨ rm = 3 ∨ rm = 6) ↔ rm.toNat ∈ [2, 3, 6] := by decide
  simp only [defaultSegment, h, hcodes]

theorem defaultSegment_mem {f : Form} {rm : BitVec 3} {d : Disp32} (h : f.rm = .mem rm d) :
    defaultSegment f = if f.rexB = false ∧ (rm = 4 ∨ rm = 5) then .ss else .ds := by
  simp only [defaultSegment, h, baseSegment_regCode]

theorem defaultSegment_memSib {f : Form} {sc : BitVec 2} {x b : BitVec 3} {d : Disp32} (h : f.rm = .memSib sc x b d) :
    defaultSegment f = if f.rexB = false ∧ (b = 4 ∨ b = 5) then .ss else .ds := by
  simp only [defaultSegment, h, baseSegment_regCode]

/-- Settles O43: one override gives the segment, and none leaves the default of each form. -/
theorem segmentChoice : Obligations.SegmentChoice := by
  intro f
  refine ⟨fun g hg => ?_, fun hnone => ?_⟩
  · rw [segmentOf, segOverride_eq_filter, hg]
    rfl
  · have hdefault : segmentOf f = defaultSegment f := by
      rw [segmentOf, segOverride_eq_filter, hnone]
      rfl
    rw [hdefault]
    refine ⟨fun rm d h => defaultSegment_mem h, fun sc x b d h => defaultSegment_memSib h, fun sc x v h => ?_,
      fun v h => ?_, fun rm d h => defaultSegment_mem16 h, fun v h => ?_⟩ <;> rw [defaultSegment, h]

end Sys2Proof.Machine

namespace Sys2Proof.Machine

/-! ## Addresses as integers modulo the address size -/

theorem addrBits_le (a : AddrSize) : addrBits a ≤ 64 := by
  cases a <;> decide

section
variable (a : AddrSize) {v w : Word64} {i j : ℤ}

/-- A remainder by at least the address size makes no difference to an address (`30_encoding.md` R75). -/
theorem emod_two_pow_modEq {n : Nat} (hn : addrBits a ≤ n) (i : ℤ) : i % 2 ^ n ≡ i [ZMOD 2 ^ addrBits a] :=
  Int.emod_emod_of_dvd i (pow_dvd_pow 2 hn)

/-- Reducing modulo `2^A` gives the remainder of any integer that the cell stands for (`30_encoding.md` R75). -/
theorem truncTo_toNat (h : (v.toNat : ℤ) ≡ i [ZMOD 2 ^ addrBits a]) :
    ((truncTo a v).toNat : ℤ) = i % 2 ^ addrBits a := by
  have hcut : (truncTo a v).toNat = v.toNat % 2 ^ addrBits a := by
    rw [truncTo, BitVec.toNat_setWidth, BitVec.toNat_setWidth]
    exact Nat.mod_eq_of_lt ((Nat.mod_lt _ (Nat.two_pow_pos _)).trans_le
      (Nat.pow_le_pow_right (by decide) (addrBits_le a)))
  rw [hcut]
  push_cast
  exact h

theorem addrReg_modEq (c : BitVec 4) (s : State) :
    ((addrReg a c s).toNat : ℤ) ≡ (s.reg c).toNat [ZMOD 2 ^ addrBits a] := by
  rw [addrReg, truncTo_toNat a (Int.ModEq.refl _)]
  exact Int.mod_modEq _ _

theorem add_modEq (hv : (v.toNat : ℤ) ≡ i [ZMOD 2 ^ addrBits a]) (hw : (w.toNat : ℤ) ≡ j [ZMOD 2 ^ addrBits a]) :
    ((v + w).toNat : ℤ) ≡ i + j [ZMOD 2 ^ addrBits a] := by
  rw [BitVec.toNat_add]
  push_cast
  exact (emod_two_pow_modEq a (addrBits_le a) _).trans (hv.add hw)

theorem shiftLeft_modEq (hv : (v.toNat : ℤ) ≡ i [ZMOD 2 ^ addrBits a]) (n : Nat) :
    ((v <<< n).toNat : ℤ) ≡ i * 2 ^ n [ZMOD 2 ^ addrBits a] := by
  rw [BitVec.toNat_shiftLeft, Nat.shiftLeft_eq]
  push_cast
  exact (emod_two_pow_modEq a (addrBits_le a) _).trans (hv.mul_right _)

/-- A sign-extended displacement stands for its signed value (`30_encoding.md` R81). -/
theorem signExtend_modEq {n : Nat} (d : BitVec n) :
    ((d.signExtend 64).toNat : ℤ) ≡ d.toInt [ZMOD 2 ^ addrBits a] := by
  rw [BitVec.signExtend, BitVec.toNat_ofInt, Int.toNat_of_nonneg (Int.emod_nonneg _ (by decide))]
  exact emod_two_pow_modEq a (addrBits_le a) _

theorem dispValue16_modEq (d : Disp16) : ((dispValue16 d).toNat : ℤ) ≡ dispInt16 d [ZMOD 2 ^ addrBits a] := by
  cases d with
  | d0 => rfl
  | d8 v | d16 v => exact signExtend_modEq a v

theorem dispValue32_modEq (d : Disp32) : ((dispValue32 d).toNat : ℤ) ≡ dispInt32 d [ZMOD 2 ^ addrBits a] := by
  cases d with
  | d0 => rfl
  | d8 v | d32 v => exact signExtend_modEq a v

/-- In `Mode64` the next instruction lies `n` bytes on (`30_encoding.md` R78). -/
theorem State.pcPlus_modEq {s : State} (hm : s.mode = .mode64) (n : Nat) :
    ((s.pcPlus n).toNat : ℤ) ≡ s.pc.toNat + n [ZMOD 2 ^ addrBits a] := by
  rw [State.pcPlus_toNat, hm]
  push_cast
  exact emod_two_pow_modEq a (addrBits_le a) _

/-- The scaled index, 0 for the code that means none (`30_encoding.md` R77). -/
theorem indexPart_modEq (ext : Bool) (sc : BitVec 2) (x : BitVec 3) (s : State) :
    ((indexPart a ext sc x s).toNat : ℤ) ≡
      ((if ext = false ∧ x = 4 then 0 else (s.reg (regCode ext x)).toNat * 2 ^ sc.toNat : Nat) : ℤ)
      [ZMOD 2 ^ addrBits a] := by
  have hcode : ∀ (ext : Bool) (x : BitVec 3), regCode ext x = 4 ↔ ext = false ∧ x = 4 := by decide
  unfold indexPart
  simp only [hcode]
  split_ifs
  · rfl
  · push_cast
    exact shiftLeft_modEq a (addrReg_modEq a _ s) _

end

/-! ## Effective addresses -/

/-- Settles O44: the table of `30_encoding.md` R79, row by row. -/
theorem ea16 : Obligations.Ea16 := by
  intro f s
  have hone (c : BitVec 4) :
      ((addrReg .a16 c s).toNat : ℤ) ≡ ((s.reg c).toNat % 2 ^ 16 : Nat) [ZMOD 2 ^ addrBits .a16] := by
    push_cast
    exact (addrReg_modEq .a16 c s).trans (Int.mod_modEq _ _).symm
  have htwo (c c' : BitVec 4) : ((addrReg .a16 c s + addrReg .a16 c' s).toNat : ℤ) ≡
      ((s.reg c).toNat % 2 ^ 16 + (s.reg c').toNat % 2 ^ 16 : Nat) [ZMOD 2 ^ addrBits .a16] := by
    rw [Nat.cast_add]
    exact add_modEq .a16 (hone c) (hone c')
  refine ⟨fun rm d hrm => ⟨?_, defaultSegment_mem16 hrm⟩, fun v hrm => ⟨?_, ?_⟩⟩
  · simp only [effectiveAddress, hrm]
    refine truncTo_toNat .a16 (add_modEq .a16 ?_ (dispValue16_modEq .a16 d))
    unfold base16
    generalize rm.toNat = n
    match n with
    | 0 => exact htwo 3 6
    | 1 => exact htwo 3 7
    | 2 => exact htwo 5 6
    | 3 => exact htwo 5 7
    | 4 => exact hone 6
    | 5 => exact hone 7
    | 6 => exact hone 5
    | _ + 7 => exact hone 3
  · simp only [effectiveAddress, hrm]
    exact BitVec.toNat_setWidth_of_le (by decide)
  · rw [defaultSegment, hrm]

/-- The number of bits of an address size other than 16. -/
theorem addrBits_of_ne_a16 {a : AddrSize} (h : a ≠ .a16) : addrBits a = if a = .a64 then 64 else 32 := by
  cases a with
  | a16 => exact absurd rfl h
  | a32 | a64 => rfl

/-- Settles O45: base or next instruction plus displacement. -/
theorem eaModRm : Obligations.EaModRm := by
  intro f s ha
  rw [← addrBits_of_ne_a16 ha]
  refine ⟨fun rm d hrm => ?_, fun v hrm hm => ?_, fun v hrm hm => ?_⟩
  · simp only [effectiveAddress, hrm]
    exact truncTo_toNat _ (add_modEq _ (addrReg_modEq _ _ s) (dispValue32_modEq _ d))
  · simp only [effectiveAddress, hrm, if_pos hm]
    exact truncTo_toNat _ (add_modEq _ (State.pcPlus_modEq _ hm _) (signExtend_modEq _ v))
  · simp only [effectiveAddress, hrm, if_neg hm]
    exact BitVec.toNat_setWidth_of_le (by decide)

/-- Settles O46: base or disp32, scaled index and displacement. -/
theorem eaSib : Obligations.EaSib := by
  intro f s ha
  rw [← addrBits_of_ne_a16 ha]
  refine ⟨fun sc x b d hrm => ⟨?_, defaultSegment_memSib hrm⟩, fun sc x v hrm => ⟨?_, ?_⟩⟩
  · simp only [effectiveAddress, hrm]
    exact truncTo_toNat _ (add_modEq _ (add_modEq _ (addrReg_modEq _ _ s) (indexPart_modEq _ _ sc x s))
      (dispValue32_modEq _ d))
  · simp only [effectiveAddress, hrm]
    exact truncTo_toNat _ (add_modEq _ (signExtend_modEq _ v) (indexPart_modEq _ _ sc x s))
  · rw [defaultSegment, hrm]

end Sys2Proof.Machine
end

section
/-! PROOFS. The statements of `40_rotate_common.md`: the laws of the four functions, read off the rotations that their
loops are; the flags that no rotate changes and the count in CL; which fault has which cause, and that the count and CF
have no part in one. -/

namespace Sys2Proof.Machine

/-! ## Rotations that undo each other, and the 1 bits of a rotation -/

/-- A right rotation undoes the left rotation by the same amount. -/
theorem rotateRight_rotateLeft {w : Nat} (x : BitVec w) (t : Nat) : (x.rotateLeft t).rotateRight t = x := by
  refine BitVec.eq_of_getLsbD_eq fun i hi => ?_
  have hwhole : i + t + (w - 1) * t = i + w * t := by
    obtain ⟨v, rfl⟩ : ∃ v, w = v + 1 := ⟨w - 1, by omega⟩
    rw [Nat.add_sub_cancel]
    ring
  rw [getLsbD_rotateRight_mod _ t i hi, getLsbD_rotateLeft_mod _ t _ (Nat.mod_lt _ (by omega)), Nat.mod_add_mod, hwhole,
    Nat.add_mul_mod_self_left, Nat.mod_eq_of_lt hi]

/-- A left rotation is the right rotation by what is missing to a full turn. -/
theorem rotateLeft_eq_rotateRight {w : Nat} (x : BitVec w) (t : Nat) :
    x.rotateLeft t = x.rotateRight ((w - t % w) % w) := by
  refine BitVec.eq_of_getLsbD_eq fun i hi => ?_
  have hw : t % w < w := Nat.mod_lt t (by omega)
  rw [getLsbD_rotateLeft_mod x t i hi, getLsbD_rotateRight_mod x _ i hi, sub_index w t i hi, Nat.add_mod_mod]
  generalize t % w = r at hw
  congr 1
  split
  · rw [Nat.mod_eq_of_lt (by omega)]
    omega
  · rw [Nat.mod_eq_sub_mod (by omega), Nat.mod_eq_of_lt (by omega)]
    omega

theorem onesCount_rotateRight_one {w : Nat} (x : BitVec w) : onesCount (x.rotateRight 1) = onesCount x := by
  cases w with
  | zero => rfl
  | succ n =>
    have hlast : (x.rotateRight 1).getLsbD n = x.getLsbD 0 := by
      rw [getLsbD_rotateRight_mod x 1 n n.lt_succ_self, Nat.mod_self]
    have hbelow : ∀ k ∈ List.range n, (x.rotateRight 1).getLsbD k = x.getLsbD (k + 1) := fun k hk => by
      have hk := List.mem_range.mp hk
      rw [getLsbD_rotateRight_mod x 1 k (by omega), Nat.mod_eq_of_lt (by omega)]
    calc onesCount (x.rotateRight 1)
        = (List.range n).countP (fun k => (x.rotateRight 1).getLsbD k)
            + [n].countP (fun k => (x.rotateRight 1).getLsbD k) := by
          rw [onesCount, List.range_succ, List.countP_append]
      _ = (List.range n).countP (fun k => x.getLsbD (k + 1)) + if x.getLsbD 0 then 1 else 0 := by
          rw [List.countP_congr fun k hk => by rw [hbelow k hk], List.countP_singleton, hlast]
      _ = onesCount x := by
          rw [onesCount, List.range_succ_eq_map, List.countP_cons, List.countP_map]
          rfl

theorem onesCount_rotateRight {w : Nat} (x : BitVec w) (t : Nat) : onesCount (x.rotateRight t) = onesCount x := by
  induction t generalizing x with
  | zero => rw [rotateRight_zero']
  | succ t ih => rw [← rotateRight_succ, ih, onesCount_rotateRight_one]

theorem onesCount_rotateLeft {w : Nat} (x : BitVec w) (t : Nat) : onesCount (x.rotateLeft t) = onesCount x := by
  rw [rotateLeft_eq_rotateRight, onesCount_rotateRight]

theorem onesCount_cons {w : Nat} (c : Bool) (x : BitVec w) : onesCount (BitVec.cons c x) = onesCount x + c.toNat := by
  have htop : (BitVec.cons c x).getLsbD w = c := by rw [BitVec.getLsbD_cons, if_pos rfl]
  have hbelow : ∀ k ∈ List.range w, (BitVec.cons c x).getLsbD k = x.getLsbD k := fun k hk => by
    rw [BitVec.getLsbD_cons, if_neg (List.mem_range.mp hk).ne]
  rw [onesCount, List.range_succ, List.countP_append, List.countP_congr fun k hk => by rw [hbelow k hk],
    List.countP_singleton, htop]
  cases c <;> rfl

theorem cons_inj {w : Nat} {b c : Bool} {x y : BitVec w} (h : BitVec.cons b x = BitVec.cons c y) : b = c ∧ x = y := by
  have hmsb := congrArg BitVec.msb h
  have hlow := congrArg (BitVec.setWidth w) h
  rw [BitVec.msb_cons, BitVec.msb_cons] at hmsb
  rw [BitVec.setWidth_cons, BitVec.setWidth_cons] at hlow
  exact ⟨hmsb, hlow⟩

/-! ## The results of the four functions as rotations -/

/-- CF and DEST after a rotate of an operand with carry `c`, CF on top (`40_rotate_common.md` R108). -/
def Rotated.ring {n : Nat} (p : Rotated n) (c : Bool) : BitVec (n + 1) := BitVec.cons (p.cfNew.getD c) p.result

section
variable (z : OpSize) (d : BitVec z.bits) (c : Bool) (count : BitVec 8)

theorem bits_pos : 0 < z.bits := by
  cases z <;> decide

/-- The count that RCL and RCR perform differs from the masked count by full turns of the SIZE+1 bits
(`40_rotate_common.md` R103). -/
theorem carryCount_mod (mc : Nat) : carryCount z mc % (z.bits + 1) = mc % (z.bits + 1) := by
  cases z with
  | b8 | b16 => exact Nat.mod_mod mc _
  | b32 | b64 => rfl

theorem carryCount_zero : carryCount z 0 = 0 := by
  cases z <;> rfl

/-- ROL is the left rotation by the masked count (`43_rol.md` R160). -/
theorem rol_result : (rol z d c count).result = d.rotateLeft (countMod z count) := by
  rw [rol, rolLoop_eq, plainCount, BitVec.rotateLeft_mod_eq_rotateLeft, maskedCount_eq_countMod]

/-- ROR is the right rotation by the masked count (`44_ror.md` R180). -/
theorem ror_result : (ror z d c count).result = d.rotateRight (countMod z count) := by
  rw [ror, rorLoop_eq, plainCount, BitVec.rotateRight_mod_eq_rotateRight, maskedCount_eq_countMod]

theorem cfRule_getD {mc : Nat} {b c : Bool} (h : mc = 0 → b = c) : (cfRule mc b).getD c = b := by
  by_cases hmc : mc = 0
  · rw [cfRule, if_pos hmc, Option.getD_none, h hmc]
  · rw [cfRule, if_neg hmc, Option.getD_some]

/-- CF after RCL is that of the loop, also where the rule leaves it alone: no turn is performed there. -/
theorem rcl_cfNew_getD : (rcl z d c count).cfNew.getD c = (rclLoop (carryCount z (maskedCount z count)) d c).2 :=
  cfRule_getD fun hmc => by rw [hmc, carryCount_zero, rclLoop]

/-- CF after RCR is that of the loop, also where the rule leaves it alone: no turn is performed there. -/
theorem rcr_cfNew_getD : (rcr z d c count).cfNew.getD c = (rcrLoop (carryCount z (maskedCount z count)) d c).2 :=
  cfRule_getD fun hmc => by rw [hmc, carryCount_zero, rcrLoop]

/-- RCL rotates CF and DEST together left by the masked count (`41_rcl.md` R120). -/
theorem rcl_ring : (rcl z d c count).ring c = (BitVec.cons c d).rotateLeft (countMod z count) := by
  rw [Rotated.ring, rcl_cfNew_getD, rcl, rclLoop_eq _ d c (bits_pos z), ← BitVec.rotateLeft_mod_eq_rotateLeft,
    carryCount_mod, BitVec.rotateLeft_mod_eq_rotateLeft, maskedCount_eq_countMod]

/-- RCR rotates CF and DEST together right by the masked count (`42_rcr.md` R140). -/
theorem rcr_ring : (rcr z d c count).ring c = (BitVec.cons c d).rotateRight (countMod z count) := by
  rw [Rotated.ring, rcr_cfNew_getD, rcr, rcrLoop_eq _ d c (bits_pos z), ← BitVec.rotateRight_mod_eq_rotateRight,
    carryCount_mod, BitVec.rotateRight_mod_eq_rotateRight, maskedCount_eq_countMod]

/-- The mask keeps the count modulo the width (`40_rotate_common.md` R102). -/
theorem countMod_mod_bits : countMod z count % z.bits = count.toNat % z.bits := by
  cases z <;> exact Nat.mod_mod_of_dvd _ (by decide)

/-- A count below the width is its own masked count. -/
theorem countMod_ofNat {t : Nat} (ht : t < z.bits) : countMod z (BitVec.ofNat 8 t) = t := by
  have hmask : z.bits ≤ if z = .b64 then 64 else 32 := by cases z <;> decide
  have hbyte : z.bits ≤ 2 ^ 8 := by cases z <;> decide
  rw [countMod, BitVec.toNat_ofNat, Nat.mod_eq_of_lt (ht.trans_le hbyte), Nat.mod_eq_of_lt (ht.trans_le hmask)]

end

/-! ## Laws of the four functions -/

/-- Settles O31: a left and a right rotation by one masked count. -/
theorem rorAfterRol : Obligations.RorAfterRol := by
  intro z d b c n
  rw [ror_result, rol_result, rotateRight_rotateLeft]

/-- Settles O32: a left and a right rotation of CF and DEST together by one masked count. -/
theorem rcrAfterRcl : Obligations.RcrAfterRcl := by
  intro z d c n p q
  have hring : q.ring (p.cfNew.getD c) = BitVec.cons c d := by
    have hp : BitVec.cons (p.cfNew.getD c) p.result = (BitVec.cons c d).rotateLeft (countMod z n) := rcl_ring z d c n
    rw [rcr_ring, hp, rotateRight_rotateLeft]
  exact (cons_inj hring).symm

/-- Settles O33: the masked count is the count modulo the width, and the rest of a full turn is below the mask. -/
theorem rolIsRor : Obligations.RolIsRor := by
  intro z d b c n
  rw [rol_result, ror_result, rotateLeft_eq_rotateRight, countMod_mod_bits,
    countMod_ofNat z (Nat.mod_lt _ (bits_pos z))]

/-- The 1 bits of CF and DEST together. -/
theorem Rotated.onesCount_ring {n : Nat} (p : Rotated n) (c : Bool) :
    onesCount (p.ring c) = onesCount p.result + (p.cfNew.getD c).toNat := onesCount_cons _ _

/-- Settles O34: each function is a rotation, of DEST or of CF and DEST together. -/
theorem onesPreserved : Obligations.OnesPreserved := by
  intro z d c n
  refine ⟨?_, ?_, ?_, ?_⟩
  · rw [rol_result, onesCount_rotateLeft]
  · rw [ror_result, onesCount_rotateRight]
  · rw [← Rotated.onesCount_ring, rcl_ring, onesCount_rotateLeft, onesCount_cons]
  · rw [← Rotated.onesCount_ring, rcr_ring, onesCount_rotateRight, onesCount_cons]

/-! ## Counts that perform no rotation step -/

/-- The masked counts of `40_rotate_common.md` R113 that turn SIZE+1 bits fully. -/
theorem carryCount_fullTurn {z : OpSize} {mc : Nat} (h : (z = .b8 ∧ mc ∈ [9, 18, 27]) ∨ (z = .b16 ∧ mc = 17)) :
    1 < mc ∧ carryCount z mc = 0 := by
  rcases h with ⟨rfl, h⟩ | ⟨rfl, rfl⟩
  · revert mc
    decide
  · decide

/-- The masked counts of `40_rotate_common.md` R113 that turn SIZE bits fully. -/
theorem plainCount_fullTurn {z : OpSize} {mc : Nat} (h : (z = .b8 ∧ mc ∈ [8, 16, 24]) ∨ (z = .b16 ∧ mc = 16)) :
    1 < mc ∧ plainCount z mc = 0 := by
  rcases h with ⟨rfl, h⟩ | ⟨rfl, rfl⟩
  · revert mc
    decide
  · decide

theorem cfRule_of_one_lt {mc : Nat} (h : 1 < mc) (b : Bool) : cfRule mc b = some b := if_neg (by omega)

theorem ofRule_of_one_lt {mc : Nat} (h : 1 < mc) (b : Bool) : ofRule mc b = .undefined := by
  rw [ofRule, if_neg (by omega), if_neg (by omega)]

section
variable {z : OpSize} {count : BitVec 8} (hmc : 1 < maskedCount z count) (d : BitVec z.bits) (c : Bool)
include hmc

theorem rcl_fullTurn (h : carryCount z (maskedCount z count) = 0) : rcl z d c count = ⟨d, some c, .undefined⟩ := by
  simp only [rcl, h, rclLoop, cfRule_of_one_lt hmc, ofRule_of_one_lt hmc]

theorem rcr_fullTurn (h : carryCount z (maskedCount z count) = 0) : rcr z d c count = ⟨d, some c, .undefined⟩ := by
  simp only [rcr, h, rcrLoop, cfRule_of_one_lt hmc, ofRule_of_one_lt hmc]

theorem rol_fullTurn (h : plainCount z (maskedCount z count) = 0) :
    rol z d c count = ⟨d, some (d.getLsbD 0), .undefined⟩ := by
  simp only [rol, h, rolLoop, cfRule_of_one_lt hmc, ofRule_of_one_lt hmc]

theorem ror_fullTurn (h : plainCount z (maskedCount z count) = 0) : ror z d c count = ⟨d, some d.msb, .undefined⟩ := by
  simp only [ror, h, rorLoop, cfRule_of_one_lt hmc, ofRule_of_one_lt hmc]

end

/-- Settles O35: the loop is entered zero times, and the masked count alone says what CF and OF become. -/
theorem fullTurns : Obligations.FullTurns := by
  intro z d c n mc fullCarry fullPlain
  have hmask : maskedCount z n = mc := maskedCount_eq_countMod z n
  refine ⟨fun hzero mn => rotate_maskedCount_zero (hmask.trans hzero) mn d c, fun hcarry => ?_, fun hplain => ?_⟩
  · obtain ⟨hmc, hturn⟩ := carryCount_fullTurn hcarry
    rw [← hmask] at hmc hturn
    exact ⟨rcl_fullTurn hmc d c hturn, rcr_fullTurn hmc d c hturn⟩
  · obtain ⟨hmc, hturn⟩ := plainCount_fullTurn hplain
    rw [← hmask] at hmc hturn
    exact ⟨rol_fullTurn hmc d c hturn, ror_fullTurn hmc d c hturn⟩

/-! ## Flags and the count in CL -/

/-- Settles O17: the write-back keeps the four flags. -/
theorem flagsUnaffected : Obligations.FlagsUnaffected := by
  intro i s t hexec
  rw [eq_commit_of_exec_next hexec]
  exact ⟨commit_sf _ _, commit_zf _ _, commit_af _ _, commit_pf _ _⟩

theorem lock_eq_false_of_not_mem {f : Form} (h : Legacy.lock ∉ f.legacy) : f.lock = false := by
  simpa [Form.lock] using h

theorem State.cl_toNat (s : State) : s.cl.toNat = (s.reg 1).toNat % 256 := by
  simp [State.cl]

/-- Settles O37: the count and the operand are both read from the state before, and all of RCX is written. -/
theorem aliasedCount : Obligations.AliasedCount := by
  intro l rex s hm _ hlock hb
  obtain ⟨hread, _, hwrite, _⟩ := view64And16 s 1 true
  have hrm : (Instr.rorRm64Cl l rex (.reg 1)).form.rm = .reg 1 := rfl
  have hdest : destOf (Instr.rorRm64Cl l rex (.reg 1)).form s = .reg 1 := by
    rw [destOf_reg hrm]
    simp [Instr.form, Form.rexB, hb, regCode]
  have hresult : (rotated (Instr.rorRm64Cl l rex (.reg 1)).form s).result =
      (s.reg 1).rotateRight ((s.reg 1).toNat % 256 % 64) := by
    rw [rotated, hdest, ← State.cl_toNat, ← hread]
    exact ror_result .b64 _ s.cf s.cl
  have hreg (k : BitVec 4) : (commit (Instr.rorRm64Cl l rex (.reg 1)).form s).reg k =
      if k = 1 then (s.reg 1).rotateRight ((s.reg 1).toNat % 256 % 64) else s.reg k := by
    rw [commit_reg, hdest, hresult]
    exact hwrite _ k
  refine ⟨_, exec_reg_mode64 hrm hm (lock_eq_false_of_not_mem hlock), ?_, fun c hc => ?_⟩
  · rw [hreg, if_pos rfl]
  · rw [hreg, if_neg hc]

/-! ## Which fault has which cause -/

/-- A byte of the access lies beyond the limit of its segment outside `Mode64`, or is not canonical in `Mode64`
(`20_memory.md` R48, R49). -/
def State.OutOfReach (s : State) (x : Access) : Prop :=
  (s.mode ≠ .mode64 ∧ beyondLimit (s.seg x.seg) x = true) ∨
    (s.mode = .mode64 ∧ ∃ k, k < x.n ∧ ¬canonicalBits s.params.laBits ((s.accessLinear x).toNat + k))

/-- The conditions of `#GP` (`60_exceptions.md` R207). -/
def State.GpCause (s : State) (x : Access) : Prop :=
  ((isProtected s.mode = true ∨ s.mode = .mode64) ∧ (s.seg x.seg).writable = false) ∨
    (x.seg ≠ .ss ∧ s.OutOfReach x) ∨
    (isProtected s.mode = true ∧ nullFaults x.seg = true ∧ (s.seg x.seg).null = true)

theorem segmentCode_of_ne_real16 {m : Mode} (h : m ≠ .real16) : segmentCode m = some 0 := by
  rw [segmentCode_eq, if_neg h]

theorem ne_real16_of_isProtected {m : Mode} (h : isProtected m = true) : m ≠ .real16 := by
  rintro rfl
  exact absurd h Bool.false_ne_true

section
variable {s : State} {x : Access} {e : Fault}

/-- Out of reach is `#SS` through SS and `#GP` through the other segments (`60_exceptions.md` R210). -/
theorem State.OutOfReach.segmentFault_cause (h : s.OutOfReach x) (code : Option (BitVec 32)) :
    (x.seg = .ss ∧ segmentFault x.seg code = .ss code) ∨ (s.GpCause x ∧ segmentFault x.seg code = .gp code) := by
  by_cases hss : x.seg = .ss
  · exact .inl ⟨hss, if_pos hss⟩
  · exact .inr ⟨.inr (.inl ⟨hss, h⟩), if_neg hss⟩

/-- What the segment class reports: `#SS` out of reach through SS, else `#GP` under one of its conditions, with the
error code of the mode. -/
theorem State.segmentClass_some (h : (s.segCheck x).or (s.canonCheck x) = some e) :
    (x.seg = .ss ∧ s.OutOfReach x ∧ e = .ss (segmentCode s.mode)) ∨
      (s.GpCause x ∧ e = .gp (segmentCode s.mode)) := by
  have reach (hreach : s.OutOfReach x) (he : e = segmentFault x.seg (segmentCode s.mode)) :
      (x.seg = .ss ∧ s.OutOfReach x ∧ e = .ss (segmentCode s.mode)) ∨
        (s.GpCause x ∧ e = .gp (segmentCode s.mode)) := by
    rcases hreach.segmentFault_cause (segmentCode s.mode) with ⟨hss, heq⟩ | ⟨hgp, heq⟩
    · exact .inl ⟨hss, hreach, he.trans heq⟩
    · exact .inr ⟨hgp, he.trans heq⟩
  rcases Option.or_eq_some_iff.mp h with hseg | ⟨_, hcanon⟩
  · rcases s.segCheck_some x e hseg with ⟨hmode, hw, he⟩ | ⟨hmode, hbeyond, he⟩ | ⟨hprot, hsel, hnull, he⟩
    · have hreal : s.mode ≠ .real16 := hmode.elim ne_real16_of_isProtected fun h64 => by simp [h64]
      exact .inr ⟨.inl ⟨hmode, hw⟩, he.trans (by rw [segmentCode_of_ne_real16 hreal])⟩
    · exact reach (.inl ⟨hmode, hbeyond⟩) he
    · have hreal : s.mode ≠ .real16 := ne_real16_of_isProtected hprot
      exact .inr ⟨.inr (.inr ⟨hprot, hsel, hnull⟩), he.trans (by rw [segmentCode_of_ne_real16 hreal])⟩
  · obtain ⟨hmode, ⟨k, hk, hstray⟩, he⟩ := s.canonCheck_some x e hcanon
    refine reach (.inr ⟨hmode, k, hk, ?_⟩) (he.trans (by rw [hmode]; rfl))
    rw [← isCanonical_iff_canonicalBits, hstray]
    exact Bool.false_ne_true

/-- A byte that is refused lies outside real-address mode, which has no page fault (`60_exceptions.md` R202). -/
theorem State.mode_ne_real16_of_translate {la : Word64} {w : Bool} (h : s.translate la w = none) : s.mode ≠ .real16 :=
  fun hreal => Option.some_ne_none _ ((s.translate_identity la w (.inl hreal)).symm.trans h)

/-- The `#UD` class applies under LOCK only (`60_exceptions.md` R206). -/
theorem State.classFault_ud_some {lock : Bool} {d : Dest} (h : s.classFault lock d .ud = some e) :
    lock = true ∧ e = .ud := by
  cases lock with
  | false => cases h
  | true =>
    cases h
    exact ⟨rfl, rfl⟩

/-- A reported fault is `#UD` under LOCK, or that of one of the checks of a memory destination (`60_exceptions.md` R206
to R210). -/
theorem State.faultOf_cause {lock : Bool} {d : Dest} (h : s.faultOf lock d = some e) :
    (lock = true ∧ e = .ud) ∨ ∃ x, d = .mem x ∧
      ((s.segCheck x).or (s.canonCheck x) = some e ∨ s.alignCheck x = some e ∨ s.pageCheck x = some e) := by
  obtain ⟨k, hk⟩ := s.faultOf_some lock d e h
  cases k with
  | ud => exact .inl (State.classFault_ud_some hk)
  | segment =>
    cases d with
    | reg c => cases hk
    | mem x => exact .inr ⟨x, rfl, .inl hk⟩
  | alignment =>
    cases d with
    | reg c => cases hk
    | mem x => exact .inr ⟨x, rfl, .inr (.inl hk)⟩
  | page =>
    cases d with
    | reg c => cases hk
    | mem x => exact .inr ⟨x, rfl, .inr (.inr hk)⟩

end

/-- Settles O52: the reported fault is that of a class, and each check of a class says its own condition. -/
theorem faultCauses : Obligations.FaultCauses := by
  intro i s e hexec
  rw [exec_eq_execRotate, execRotate_fault] at hexec
  obtain ⟨_, hfault⟩ := hexec
  refine (State.faultOf_cause hfault).imp_right ?_
  rintro ⟨x, hdest, hcheck⟩
  have hbytes : i.form.size.bytes = x.n := by rw [destOf_mem i.form s x hdest]
  refine ⟨x, hdest, ?_⟩
  rw [hbytes]
  simp only [← beyondLimit_iff, ← isProtected_iff, ← nullFaults_iff, ← segmentCode_eq]
  rcases hcheck with hsegment | halign | hpage
  · rcases State.segmentClass_some hsegment with ⟨hss, hreach, rfl⟩ | ⟨hcause, rfl⟩
    · exact ⟨hss, hreach, rfl⟩
    · exact ⟨rfl, hcause⟩
  · obtain ⟨hreal, henabled, hunaligned, hcpl, rfl⟩ := s.alignCheck_some x e halign
    exact ⟨rfl, hreal, henabled, hcpl, fun hdvd => hunaligned (Nat.mod_eq_zero_of_dvd hdvd)⟩
  · obtain ⟨la, hla, hnone, rfl⟩ := s.pageCheck_some x e hpage
    exact ⟨State.mode_ne_real16_of_translate hnone, hnone, fun hcpl => s.pageCode_user _ _ ((s.atCpl3_iff).mpr hcpl),
      (s.mem_accessBytes x la).mp hla⟩

/-! ## What has no part in a fault -/

/-- An instruction that differs at most in the count, in a state with the same parameters, faults alike when its
destination lies at the same place (`60_exceptions.md` R212). -/
theorem execRotate_fault_congr {f g : Form} {s t : State} {e : Fault} (hform : ∃ c, g = { f with count := c })
    (hparams : t.params = s.params) (hdest : destOf g t = destOf f s) (h : execRotate f s = .fault e) :
    execRotate g t = .fault e := by
  rw [execRotate_fault] at h ⊢
  obtain ⟨hrow, hfault⟩ := h
  rw [hdest, State.faultOf_params s t _ _ hparams]
  obtain ⟨c, rfl⟩ := hform
  have hrow' : existsInMode { f with count := c } t = existsInMode f s := by
    unfold existsInMode State.mode
    rw [hparams]
  exact ⟨hrow'.trans hrow, hfault⟩

theorem destOf_setCf (f : Form) (s : State) (b : Bool) : destOf f (s.setCf b) = destOf f s := rfl

/-- The count has a part in the place of the destination through the length of the instruction only, which counts for an
address relative to the next one (`30_encoding.md` R78). -/
theorem destOf_count {f : Form} {c : Count} (h : { f with count := c }.length = f.length) (s : State) :
    destOf { f with count := c } s = destOf f s := by
  have hea : effectiveAddress { f with count := c } s = effectiveAddress f s := by
    simp only [effectiveAddress, h]
    rfl
  unfold destOf
  rw [hea]
  rfl

theorem addrReg_setReg_ne (a : AddrSize) {k c : BitVec 4} (h : k ≠ c) (v : Word64) (s : State) :
    addrReg a k (s.setReg c v) = addrReg a k s := by
  rw [addrReg, State.setReg_reg_ne s c k v h, addrReg]

/-- Register 1 takes no part in 16-bit addressing (`30_encoding.md` R79). -/
theorem base16_setReg_one (rm : BitVec 3) (v : Word64) (s : State) : base16 rm (s.setReg 1 v) = base16 rm s := by
  unfold base16
  simp [addrReg_setReg_ne]

theorem indexPart_setReg_ne (a : AddrSize) {x : Bool} {index : BitVec 3} {c : BitVec 4} (h : regCode x index ≠ c)
    (sc : BitVec 2) (v : Word64) (s : State) : indexPart a x sc index (s.setReg c v) = indexPart a x sc index s := by
  rw [indexPart, addrReg_setReg_ne a h, indexPart]

/-- Register 1 has no part in an address that does not name it. -/
theorem effectiveAddress_setReg_one {f : Form} (h : addressUsesReg1 f = false) (v : Word64) (s : State) :
    effectiveAddress f (s.setReg 1 v) = effectiveAddress f s := by
  obtain ⟨_, _, _, _, rm, _⟩ := f
  cases rm with
  | reg _ | mem16Abs _ | memDisp32 _ => rfl
  | mem16 rm d => simp only [effectiveAddress, base16_setReg_one]
  | mem rm d =>
    have hbase := ne_of_beq_false h
    simp only [effectiveAddress, addrReg_setReg_ne _ hbase, State.setReg_mode]
  | memSib sc index base d =>
    simp only [addressUsesReg1, Bool.or_eq_false_iff, beq_eq_false_iff_ne] at h
    obtain ⟨hbase, hindex⟩ := h
    simp only [effectiveAddress, addrReg_setReg_ne _ hbase, indexPart_setReg_ne _ hindex, State.setReg_mode]
  | memSibDisp sc index v =>
    have hindex := ne_of_beq_false h
    simp only [effectiveAddress, indexPart_setReg_ne _ hindex, State.setReg_mode]

theorem destOf_setReg_one {f : Form} (h : addressUsesReg1 f = false) (v : Word64) (s : State) :
    destOf f (s.setReg 1 v) = destOf f s := by
  unfold destOf
  rw [effectiveAddress_setReg_one h]

/-- Settles O54: a fault depends on the parameters and the place of the destination only. -/
theorem countNoFault : Obligations.CountNoFault := by
  intro i s e hexec
  rw [exec_eq_execRotate] at hexec
  refine ⟨fun b => ?_, fun j c hform hlength => ?_, fun hfree v => ?_⟩
  · rw [exec_eq_execRotate]
    exact execRotate_fault_congr ⟨_, rfl⟩ (State.setCf_params s b) (destOf_setCf i.form s b) hexec
  · have hdest : destOf j.form s = destOf i.form s := by
      rw [hform] at hlength ⊢
      exact destOf_count hlength s
    rw [exec_eq_execRotate]
    exact execRotate_fault_congr ⟨c, hform⟩ rfl hdest hexec
  · rw [exec_eq_execRotate]
    exact execRotate_fault_congr ⟨_, rfl⟩ (State.setReg_params s 1 v) (destOf_setReg_one hfree v s) hexec

end Sys2Proof.Machine
end

section
/-! PROOFS. The statements of `41_rcl.md`: how a rotate of an admitted destination completes, the state its write-back
leaves, the closed form of RCL, and the byte sequences of the examples. -/

namespace Sys2Proof.Machine

/-! ## When a rotate completes -/

section
variable {i : Instr} {s : State}

/-- A well-formed row without LOCK completes on a register destination (`40_rotate_common.md` R111). -/
theorem exec_reg_commit {r : BitVec 3} (hrm : i.form.rm = .reg r) (hwf : i.wf s.mode = true)
    (hlock : i.form.lock = false) : exec i s = .next (commit i.form s) := by
  rw [exec_eq_execRotate, execRotate_next, destOf_reg hrm, hlock]
  exact ⟨existsInMode_of_wf hwf, s.faultOf_reg _, rfl, rfl⟩

/-- A well-formed row without LOCK completes on a memory destination whose checks pass (`40_rotate_common.md` R111, R117). -/
theorem exec_mem_commit {x : Access} (hdest : destOf i.form s = .mem x) (hwf : i.wf s.mode = true)
    (hlock : i.form.lock = false) (hok : s.accessOk x) : exec i s = .next (commit i.form s) := by
  obtain ⟨hseg, hcanon, halign, hpage, hadmitted⟩ := hok
  rw [exec_eq_execRotate, execRotate_next, hdest, hlock]
  exact ⟨existsInMode_of_wf hwf, (s.faultOf_mem_none x).mpr ⟨hseg, hcanon, halign, hpage⟩, hadmitted, rfl⟩

end

/-! ## The state that the write-back leaves -/

/-- Writing CF and OF by their rules and moving `pc` leaves what `afterRotate` says (`40_rotate_common.md` R108, R109;
`10_state.md` R27). -/
theorem State.flagsAndPc_eq_afterRotate (s : State) (len mc : Nat) (cf of : Bool) :
    ((s.applyCf (cfRule mc cf)).applyOf (ofRule mc of)).advance len = afterRotate s len mc cf of := by
  match mc with
  | 0 | 1 | _ + 2 => rfl

/-- Flags and `pc` have no part in writing the destination. -/
theorem writeDest_afterRotate (z : OpSize) (rex : Bool) (d : Dest) (v : BitVec z.bits) (s : State) (len mc : Nat)
    (cf of : Bool) :
    writeDest z rex d v (afterRotate s len mc cf of) = afterRotate (writeDest z rex d v s) len mc cf of := by
  cases d <;> rfl

/-- The write-back of a rotate whose function answers by the flag rules. -/
theorem commit_of_rotated {f : Form} {s : State} {res : BitVec f.size.bits} {mc : Nat} {cf of : Bool}
    (h : rotated f s = ⟨res, cfRule mc cf, ofRule mc of⟩) :
    commit f s = writeDest f.size f.rex.isSome (destOf f s) res (afterRotate s f.length mc cf of) := by
  rw [commit, h, State.flagsAndPc_eq_afterRotate, writeDest_afterRotate]

/-! ## RCL as a rotation of CF and DEST together -/

/-- RCL answers the parts of the rotated SIZE+1 bits: the low bits are RESULT, the top bit is the new CF (`41_rcl.md`
R120). -/
theorem rcl_eq_of_ring {z : OpSize} {d : BitVec z.bits} {c : Bool} {count : BitVec 8} {v : BitVec (z.bits + 1)}
    (hv : v = (BitVec.cons c d).rotateLeft (countMod z count)) :
    rcl z d c count =
      ⟨v.setWidth z.bits, cfRule (countMod z count) v.msb,
        ofRule (countMod z count) (xor (v.setWidth z.bits).msb v.msb)⟩ := by
  have hring : v = BitVec.cons (rclLoop (carryCount z (maskedCount z count)) d c).2
      (rclLoop (carryCount z (maskedCount z count)) d c).1 := by
    rw [hv, ← rcl_ring, Rotated.ring, rcl_cfNew_getD]
    rfl
  rw [hring, BitVec.setWidth_cons, BitVec.msb_cons, ← maskedCount_eq_countMod]
  rfl

/-- The write-back of RCL, for either kind of destination. -/
theorem commit_rcl {f : Form} {s : State} {v : BitVec (f.size.bits + 1)} (hmn : f.mn = .rcl)
    (hv : v = (BitVec.cons s.cf (readDest f.size f.rex.isSome (destOf f s) s)).rotateLeft
      (countMod f.size (countValue f.count s))) :
    commit f s = writeDest f.size f.rex.isSome (destOf f s) (v.setWidth f.size.bits)
      (afterRotate s f.length (countMod f.size (countValue f.count s)) v.msb
        (xor (v.setWidth f.size.bits).msb v.msb)) := by
  refine commit_of_rotated ?_
  rw [rotated, hmn]
  exact rcl_eq_of_ring hv

/-- Settles O20: the row completes, and its destination is a register view. -/
theorem rclRegister : Obligations.RclRegister := by
  intro i s r hmn hrm hwf hlock f c d mc v res
  have hdest : destOf f s = .reg c := destOf_reg hrm s
  have hcommit := commit_rcl (v := v) hmn (by rw [hdest]; rfl)
  rw [exec_reg_commit hrm hwf hlock, hcommit, hdest]
  rfl

/-- Settles O24: the checks pass, so the row completes, and its destination is the bytes of the access. -/
theorem rclMemory : Obligations.RclMemory := by
  intro i s x hmn hdest hwf hlock hok f d mc v res
  have hcommit := commit_rcl (v := v) hmn (by rw [hdest]; rfl)
  rw [exec_mem_commit hdest hwf hlock hok, hcommit, hdest]
  rfl

/-! ## The examples of the spec as bytes -/

/-- The bytes of a well-formed instruction decode to it, with none left over. -/
theorem decode_of_encode_eq {m : Mode} {i : Instr} {bs : List Byte} (hwf : i.wf m = true) (hbytes : encode i = bs) :
    decode m bs = .ok (i, []) := by
  rw [← hbytes, ← decode_encode hwf [], List.append_nil]

/-- Settles O7: each byte sequence is the encoding of its instruction, which is well-formed in the mode. -/
theorem decodedWords : Obligations.DecodedWords := by
  refine ⟨?_, ?_, ?_, ?_, ?_, ?_, ?_, ?_⟩ <;> exact decode_of_encode_eq (by decide) (by decide)

end Sys2Proof.Machine
end

section
/-! PROOFS. The statements of `42_rcr.md`: the closed form of RCR, with OF read off the two top bits of the result, and the
completion of its rows. -/

namespace Sys2Proof.Machine

/-! ## One turn to the right -/

/-- The low bits of `CF || DEST` after one right turn are those of DEST moved down, with CF entering at the top. -/
theorem getLsbD_rotateRight_one_cons {n : Nat} (c : Bool) (d : BitVec n) {i : Nat} (hi : i < n) :
    (((BitVec.cons c d).rotateRight 1).setWidth n).getLsbD i = if i + 1 = n then c else d.getLsbD (i + 1) := by
  rw [BitVec.getLsbD_setWidth, getLsbD_rotateRight_mod _ 1 i (by omega), Nat.mod_eq_of_lt (by omega),
    BitVec.getLsbD_cons, decide_eq_true hi, Bool.true_and]

/-- The two top bits after one right turn are CF and the most-significant bit of DEST from before it, the bits from which
R140 computes OF (`42_rcr.md`). -/
theorem topBits_rotateRight_one_cons {n : Nat} (hn : 2 ≤ n) (c : Bool) (d : BitVec n) :
    (((BitVec.cons c d).rotateRight 1).setWidth n).msb = c ∧
      (((BitVec.cons c d).rotateRight 1).setWidth n).getLsbD (n - 2) = d.msb := by
  constructor
  · rw [BitVec.msb_eq_getLsbD_last, getLsbD_rotateRight_one_cons c d (by omega), if_pos (by omega)]
  · rw [BitVec.msb_eq_getLsbD_last, getLsbD_rotateRight_one_cons c d (by omega), if_neg (by omega),
      show n - 2 + 1 = n - 1 by omega]

theorem two_le_bits (z : OpSize) : 2 ≤ z.bits := by
  cases z <;> decide

/-! ## RCR as a rotation of CF and DEST together -/

/-- The bit given to the OF rule counts for masked count 1 only (`40_rotate_common.md` R109). -/
theorem ofRule_congr {mc : Nat} {a b : Bool} (h : mc = 1 → a = b) : ofRule mc a = ofRule mc b := by
  by_cases hmc : mc = 1
  · rw [h hmc]
  · simp only [ofRule, if_neg hmc]

/-- RCR answers the parts of the rotated SIZE+1 bits: the low bits are RESULT, the top bit is the new CF, and where OF is
defined it is the exclusive OR of the two top bits of RESULT (`42_rcr.md` R140). -/
theorem rcr_eq_of_ring {z : OpSize} {d : BitVec z.bits} {c : Bool} {count : BitVec 8} {v : BitVec (z.bits + 1)}
    (hv : v = (BitVec.cons c d).rotateRight (countMod z count)) :
    rcr z d c count =
      ⟨v.setWidth z.bits, cfRule (countMod z count) v.msb,
        ofRule (countMod z count)
          (xor (v.setWidth z.bits).msb ((v.setWidth z.bits).getLsbD (z.bits - 2)))⟩ := by
  have hof : ofRule (countMod z count) (xor (v.setWidth z.bits).msb ((v.setWidth z.bits).getLsbD (z.bits - 2))) =
      ofRule (countMod z count) (xor d.msb c) := ofRule_congr fun hmc => by
    obtain ⟨htop, hbelow⟩ := topBits_rotateRight_one_cons (two_le_bits z) c d
    rw [hv, hmc, htop, hbelow, Bool.xor_comm]
  have hring : v = BitVec.cons (rcrLoop (carryCount z (maskedCount z count)) d c).2
      (rcrLoop (carryCount z (maskedCount z count)) d c).1 := by
    rw [hv, ← rcr_ring, Rotated.ring, rcr_cfNew_getD]
    rfl
  rw [hof, hring, BitVec.setWidth_cons, BitVec.msb_cons, ← maskedCount_eq_countMod]
  rfl

/-- The write-back of RCR, for either kind of destination. -/
theorem commit_rcr {f : Form} {s : State} {v : BitVec (f.size.bits + 1)} (hmn : f.mn = .rcr)
    (hv : v = (BitVec.cons s.cf (readDest f.size f.rex.isSome (destOf f s) s)).rotateRight
      (countMod f.size (countValue f.count s))) :
    commit f s = writeDest f.size f.rex.isSome (destOf f s) (v.setWidth f.size.bits)
      (afterRotate s f.length (countMod f.size (countValue f.count s)) v.msb
        (xor (v.setWidth f.size.bits).msb ((v.setWidth f.size.bits).getLsbD (f.size.bits - 2)))) := by
  refine commit_of_rotated ?_
  rw [rotated, hmn]
  exact rcr_eq_of_ring hv

/-- Settles O21: the row completes, and its destination is a register view. -/
theorem rcrRegister : Obligations.RcrRegister := by
  intro i s r hmn hrm hwf hlock f c d mc v res
  have hdest : destOf f s = .reg c := destOf_reg hrm s
  have hcommit := commit_rcr (v := v) hmn (by rw [hdest]; rfl)
  rw [exec_reg_commit hrm hwf hlock, hcommit, hdest]
  rfl

/-- Settles O25: the checks pass, so the row completes, and its destination is the bytes of the access. -/
theorem rcrMemory : Obligations.RcrMemory := by
  intro i s x hmn hdest hwf hlock hok f d mc v res
  have hcommit := commit_rcr (v := v) hmn (by rw [hdest]; rfl)
  rw [exec_mem_commit hdest hwf hlock hok, hcommit, hdest]
  rfl

end Sys2Proof.Machine
end

section
/-! PROOFS. The statements of `43_rol.md`: the closed form of ROL with its flags read off the result, and the completion of
its rows. -/

namespace Sys2Proof.Machine

/-- ROL computes both flags from RESULT alone: bit 0 is the new CF, and where OF is defined it is the exclusive OR of the
two end bits of RESULT (`43_rol.md` R160). -/
theorem rol_eq_of_result {z : OpSize} {d : BitVec z.bits} (c : Bool) {count : BitVec 8} {res : BitVec z.bits}
    (hres : res = d.rotateLeft (countMod z count)) :
    rol z d c count =
      ⟨res, cfRule (countMod z count) (res.getLsbD 0),
        ofRule (countMod z count) (xor res.msb (res.getLsbD 0))⟩ := by
  rw [hres, ← rol_result z d c count, ← maskedCount_eq_countMod]
  rfl

/-- The write-back of ROL, for either kind of destination. -/
theorem commit_rol {f : Form} {s : State} {res : BitVec f.size.bits} (hmn : f.mn = .rol)
    (hres : res = (readDest f.size f.rex.isSome (destOf f s) s).rotateLeft
      (countMod f.size (countValue f.count s))) :
    commit f s = writeDest f.size f.rex.isSome (destOf f s) res
      (afterRotate s f.length (countMod f.size (countValue f.count s)) (res.getLsbD 0)
        (xor res.msb (res.getLsbD 0))) := by
  refine commit_of_rotated ?_
  rw [rotated, hmn]
  exact rol_eq_of_result s.cf hres

/-- Settles O22: the row completes, and its destination is a register view. -/
theorem rolRegister : Obligations.RolRegister := by
  intro i s r hmn hrm hwf hlock f c d mc res
  have hdest : destOf f s = .reg c := destOf_reg hrm s
  have hcommit := commit_rol (res := res) hmn (by rw [hdest]; rfl)
  rw [exec_reg_commit hrm hwf hlock, hcommit, hdest]
  rfl

/-- Settles O26: the checks pass, so the row completes, and its destination is the bytes of the access. -/
theorem rolMemory : Obligations.RolMemory := by
  intro i s x hmn hdest hwf hlock hok f d mc res
  have hcommit := commit_rol (res := res) hmn (by rw [hdest]; rfl)
  rw [exec_mem_commit hdest hwf hlock hok, hcommit, hdest]
  rfl

end Sys2Proof.Machine
end

section
/-! PROOFS. The statements of `44_ror.md`: the closed form of ROR with its flags read off the result, and the completion of
its rows. -/

namespace Sys2Proof.Machine

/-- ROR computes both flags from RESULT alone: the top bit is the new CF, and where OF is defined it is the exclusive OR of
the two top bits of RESULT (`44_ror.md` R180). -/
theorem ror_eq_of_result {z : OpSize} {d : BitVec z.bits} (c : Bool) {count : BitVec 8} {res : BitVec z.bits}
    (hres : res = d.rotateRight (countMod z count)) :
    ror z d c count =
      ⟨res, cfRule (countMod z count) res.msb,
        ofRule (countMod z count) (xor res.msb (res.getLsbD (z.bits - 2)))⟩ := by
  rw [hres, ← ror_result z d c count, ← maskedCount_eq_countMod]
  rfl

/-- The write-back of ROR, for either kind of destination. -/
theorem commit_ror {f : Form} {s : State} {res : BitVec f.size.bits} (hmn : f.mn = .ror)
    (hres : res = (readDest f.size f.rex.isSome (destOf f s) s).rotateRight
      (countMod f.size (countValue f.count s))) :
    commit f s = writeDest f.size f.rex.isSome (destOf f s) res
      (afterRotate s f.length (countMod f.size (countValue f.count s)) res.msb
        (xor res.msb (res.getLsbD (f.size.bits - 2)))) := by
  refine commit_of_rotated ?_
  rw [rotated, hmn]
  exact ror_eq_of_result s.cf hres

/-- Settles O23: the row completes, and its destination is a register view. -/
theorem rorRegister : Obligations.RorRegister := by
  intro i s r hmn hrm hwf hlock f c d mc res
  have hdest : destOf f s = .reg c := destOf_reg hrm s
  have hcommit := commit_ror (res := res) hmn (by rw [hdest]; rfl)
  rw [exec_reg_commit hrm hwf hlock, hcommit, hdest]
  rfl

/-- Settles O27: the checks pass, so the row completes, and its destination is the bytes of the access. -/
theorem rorMemory : Obligations.RorMemory := by
  intro i s x hmn hdest hwf hlock hok f d mc res
  have hcommit := commit_ror (res := res) hmn (by rw [hdest]; rfl)
  rw [exec_mem_commit hdest hwf hlock hok, hcommit, hdest]
  rfl

end Sys2Proof.Machine
end

section
/-! PROOFS. The statements of `60_exceptions.md`: `#AC(0)` and its condition, and `#PF` at the first byte that `Translate`
refuses, with its code. -/

namespace Sys2Proof.Machine

/-! ## The faults after the segment conditions -/

/-- Without LOCK and under the default order `#AC`, then `#PF`, is reported where the segment and canonical conditions pass
(`60_exceptions.md` R211). -/
theorem exec_fault_after_segment {i : Instr} {s : State} {x : Access} {e : Fault} (hwf : i.wf s.mode = true)
    (hlock : i.form.lock = false) (horder : s.params.faultOrder = FaultClass.defaultOrder)
    (hdest : destOf i.form s = .mem x) (hseg : s.segCheck x = none) (hcanon : s.canonCheck x = none)
    (hfault : (s.alignCheck x).or (s.pageCheck x) = some e) : exec i s = .fault e := by
  rw [exec_eq_execRotate, execRotate_fault, State.faultOf_default _ _ _ horder, hlock, hdest]
  refine ⟨existsInMode_of_wf hwf, ?_⟩
  simp only [State.classFault, Bool.false_eq_true, if_false, hseg, hcanon, Option.none_or, hfault]

/-! ## The alignment check -/

/-- The conditions under which an access raises `#AC(0)` (`60_exceptions.md` R208, `20_memory.md` R51). -/
theorem State.alignCheck_misaligned {s : State} {x : Access} (hmode : s.mode ≠ .real16)
    (henabled : s.params.alignCheckEnabled = true) (hmisaligned : ¬x.n ∣ (s.accessLinear x).toNat)
    (huser : s.params.cpl = 3 ∨ s.mode = .v86) : s.alignCheck x = some (.ac 0) :=
  if_pos ⟨hmode, henabled, mt Nat.dvd_of_mod_eq_zero hmisaligned, s.atCpl3_iff.mpr huser⟩

/-- A byte is always aligned, so a misaligned operand has 2, 4 or 8 bytes (`60_exceptions.md` R208). -/
theorem OpSize.bytes_of_misaligned {z : OpSize} {a : Nat} (h : ¬z.bytes ∣ a) : z.bytes ∈ [2, 4, 8] := by
  cases z with
  | b8 => exact absurd (one_dvd a) h
  | b16 | b32 | b64 => decide

/-- Settles O48: the alignment check answers exactly under its condition, and it alone has the fault `#AC`. -/
theorem alignmentFault : Obligations.AlignmentFault := by
  intro i s x hwf hlock hdest cond
  have hbytes : i.form.size.bytes = x.n := by rw [destOf_mem i.form s x hdest]
  refine ⟨?_, fun code hexec => ?_⟩
  · rintro ⟨_, hmisaligned, henabled, hmode, huser⟩ horder hseg hcanon
    rw [hbytes] at hmisaligned
    refine exec_fault_after_segment hwf hlock horder hdest hseg hcanon ?_
    rw [State.alignCheck_misaligned hmode henabled hmisaligned huser, Option.some_or]
  · rcases faultCauses i s _ hexec with ⟨_, hud⟩ | ⟨y, hy, hcode, hmode, henabled, huser, hmisaligned⟩
    · cases hud
    · obtain rfl : x = y := Dest.mem.inj (hdest.symm.trans hy)
      exact ⟨hcode, OpSize.bytes_of_misaligned hmisaligned, hmisaligned, henabled, hmode, huser⟩

/-! ## The page check -/

/-- The first byte in ascending order that `Translate` refuses for a write is the one `#PF` reports (`60_exceptions.md`
R209, `20_memory.md` R52). -/
theorem State.pageCheck_first {s : State} {x : Access} {k : Nat} (hk : k < x.n)
    (hbefore : ∀ j, j < k → (s.translate (s.byteAddr (s.accessLinear x) j) true).isSome = true)
    (hrefused : s.translate (s.byteAddr (s.accessLinear x) k) true = none) :
    s.pageCheck x = some (.pf (s.pageCode x.n (s.byteAddr (s.accessLinear x) k)) (s.byteAddr (s.accessLinear x) k)) := by
  have hfirst : (s.accessBytes x).find? (fun la => (s.translate la true).isNone) =
      some (s.byteAddr (s.accessLinear x) k) := by
    rw [List.find?_eq_some_iff_getElem]
    refine ⟨by rw [hrefused]; rfl, k, by rwa [State.accessBytes_length], by simp [State.accessBytes], fun j hj => ?_⟩
    simpa [State.accessBytes, ← Option.isSome_iff_ne_none] using hbefore j hj
  rw [State.pageCheck, hfirst]

/-- The code of a refused write: 7 or 6 for user mode, else the parameter PFCode (`20_memory.md` R50, `60_exceptions.md`
R213; log entry 8). -/
theorem State.pageCode_eq (s : State) (n : Nat) (la : Word64) :
    s.pageCode n la = if s.params.cpl = 3 ∨ s.mode = .v86 then (if (s.translate la false).isSome then 7 else 6)
      else Config.pfCode la n s.params.cpl (s.translate la false).isSome := by
  by_cases huser : s.params.cpl = 3 ∨ s.mode = .v86
  · rw [s.pageCode_user n la (s.atCpl3_iff.mpr huser), if_pos huser, State.present]
  · rw [State.pageCode, if_neg (mt s.atCpl3_iff.mp huser), if_neg huser, State.present]

/-- Settles O50: the earlier checks pass, so the page check is reported, with the first refused byte and its code. -/
theorem pageFault : Obligations.PageFault := by
  intro i s x k hwf hlock horder hdest hseg hcanon halign hk hbefore hrefused la present
  have hbytes : i.form.size.bytes = x.n := by rw [destOf_mem i.form s x hdest]
  have hpage : s.pageCheck x = some (.pf (s.pageCode x.n la) la) :=
    State.pageCheck_first (hbytes ▸ hk) hbefore hrefused
  rw [hbytes, ← s.pageCode_eq x.n la]
  exact exec_fault_after_segment hwf hlock horder hdest hseg hcanon (by rw [halign, Option.none_or, hpage])

end Sys2Proof.Machine
end

section
/-! PROOFS. The statements of `70_reset_and_hazards.md`: OF and the undefined bits reach nothing else (R234). A step reads
neither OF nor the counter of undefined bits, but for the draw that sets these two: each reading gives the same answer when they
are replaced, each write beside OF commutes with the replacement, and the write of OF leaves a difference in these two only. -/

namespace Sys2Proof.Machine

/-- Replace OF and the counter of undefined bits. -/
def State.withOf (s : State) (b : Bool) (n : Nat) : State := { s with of := b, draws := n }

/-- Two states agree on everything but OF and the counter exactly when one is the other with these two replaced. -/
theorem sameButOf_iff_withOf (s s' : State) : sameButOf s s' ↔ ∃ b n, s' = s.withOf b n :=
  ⟨fun h => ⟨s'.of, s'.draws, h.symm⟩, fun ⟨_, _, h⟩ => h ▸ rfl⟩

/-! ## What a step reads -/

@[simp] theorem State.withOf_fetch (s : State) (b : Bool) (n : Nat) : (s.withOf b n).fetch = s.fetch := rfl

@[simp] theorem destOf_withOf (f : Form) (s : State) (b : Bool) (n : Nat) : destOf f (s.withOf b n) = destOf f s := rfl

@[simp] theorem existsInMode_withOf (f : Form) (s : State) (b : Bool) (n : Nat) :
    existsInMode f (s.withOf b n) = existsInMode f s := rfl

@[simp] theorem State.withOf_faultOf (s : State) (b : Bool) (n : Nat) (lock : Bool) (d : Dest) :
    (s.withOf b n).faultOf lock d = s.faultOf lock d := s.faultOf_params _ lock d rfl

@[simp] theorem State.withOf_destRefusal (s : State) (b : Bool) (n : Nat) (d : Dest) :
    (s.withOf b n).destRefusal d = s.destRefusal d := by cases d <;> rfl

@[simp] theorem readDest_withOf (z : OpSize) (r : Bool) (d : Dest) (s : State) (b : Bool) (n : Nat) :
    readDest z r d (s.withOf b n) = readDest z r d s := by cases d <;> rfl

@[simp] theorem countValue_withOf (c : Count) (s : State) (b : Bool) (n : Nat) :
    countValue c (s.withOf b n) = countValue c s := by cases c <;> rfl

/-- The rotate functions take the destination, CF and the count, and none of them takes OF (`40_rotate_common.md` R111). -/
@[simp] theorem rotated_withOf (f : Form) (s : State) (b : Bool) (n : Nat) :
    rotated f (s.withOf b n) = rotated f s := by
  have hcf : (s.withOf b n).cf = s.cf := rfl
  simp only [rotated, destOf_withOf, readDest_withOf, countValue_withOf, hcf]

/-! ## What a step writes -/

@[simp] theorem writeDest_withOf (z : OpSize) (r : Bool) (d : Dest) (v : BitVec z.bits) (s : State) (b : Bool) (n : Nat) :
    writeDest z r d v (s.withOf b n) = (writeDest z r d v s).withOf b n := by cases d <;> rfl

@[simp] theorem State.withOf_applyCf (s : State) (b : Bool) (n : Nat) (c : Option Bool) :
    (s.withOf b n).applyCf c = (s.applyCf c).withOf b n := by cases c <;> rfl

/-- OF kept, written or drawn: a difference in OF and the counter stays one in OF and the counter. -/
theorem sameButOf_applyOf (s : State) (b : Bool) (n : Nat) (o : OfNew) :
    sameButOf (s.applyOf o) ((s.withOf b n).applyOf o) := by cases o <;> rfl

theorem sameButOf_advance {s s' : State} (h : sameButOf s s') (len : Nat) :
    sameButOf (s.advance len) (s'.advance len) := by
  obtain ⟨b, n, rfl⟩ := (sameButOf_iff_withOf s s').mp h
  rfl

theorem commit_sameButOf (f : Form) (s : State) (b : Bool) (n : Nat) :
    sameButOf (commit f s) (commit f (s.withOf b n)) := by
  simp only [commit, destOf_withOf, rotated_withOf, writeDest_withOf, State.withOf_applyCf]
  exact sameButOf_advance (sameButOf_applyOf _ b n _) f.length

/-! ## Steps and runs -/

/-- Of two states that differ in OF and the counter only, the second completes a step when the first does. -/
theorem step_next_of_sameButOf {s s' t : State} (h : sameButOf s s') (hstep : step s = .next t) :
    ∃ t', step s' = .next t' ∧ sameButOf t t' := by
  obtain ⟨b, n, rfl⟩ := (sameButOf_iff_withOf s s').mp h
  obtain ⟨i, hfetch, hexec⟩ := (step_next s t).mp hstep
  rw [exec_eq_execRotate, execRotate_next] at hexec
  obtain ⟨hexists, hfault, hadmitted, rfl⟩ := hexec
  refine ⟨commit i.form (s.withOf b n), (step_next _ _).mpr ⟨i, by rwa [State.withOf_fetch], ?_⟩,
    commit_sameButOf i.form s b n⟩
  rw [exec_eq_execRotate, execRotate_next]
  simp [hexists, hfault, hadmitted]

/-- Of two states that differ in OF and the counter only, the second has the fault of the first. -/
theorem step_fault_of_sameButOf {s s' : State} {e : Fault} (h : sameButOf s s') (hstep : step s = .fault e) :
    step s' = .fault e := by
  obtain ⟨b, n, rfl⟩ := (sameButOf_iff_withOf s s').mp h
  obtain ⟨i, hfetch, hexec⟩ := (step_fault s e).mp hstep
  refine (step_fault _ e).mpr ⟨i, by rwa [State.withOf_fetch], ?_⟩
  rw [exec_eq_execRotate, execRotate_fault] at hexec ⊢
  rwa [existsInMode_withOf, destOf_withOf, State.withOf_faultOf]

theorem reaches_of_sameButOf {k : Nat} {s s' t : State} (h : sameButOf s s') (hrun : Reaches k s t) :
    ∃ t', Reaches k s' t' ∧ sameButOf t t' := by
  unfold Reaches at hrun ⊢
  induction k generalizing s s' with
  | zero =>
    cases hrun
    exact ⟨s', rfl, h⟩
  | succ k ih =>
    obtain ⟨u, hfirst, hrest⟩ := (run_succ_next k s t).mp hrun
    obtain ⟨u', hfirst', hsame⟩ := step_next_of_sameButOf h hfirst
    obtain ⟨t', hrest', hend⟩ := ih hsame hrest
    exact ⟨t', (run_succ_next k s' t').mpr ⟨u', hfirst', hrest'⟩, hend⟩

theorem run_fault_of_sameButOf {k : Nat} {s s' : State} {e : Fault} (h : sameButOf s s')
    (hrun : core.run k s = .fault e) : core.run k s' = .fault e := by
  induction k generalizing s s' with
  | zero => cases hrun
  | succ k ih =>
    rw [run_succ_fault] at hrun ⊢
    rcases hrun with hfirst | ⟨u, hfirst, hrest⟩
    · exact .inl (step_fault_of_sameButOf h hfirst)
    · obtain ⟨u', hfirst', hsame⟩ := step_next_of_sameButOf h hfirst
      exact .inr ⟨u', hfirst', ih hsame hrest⟩

/-- Settles O12: the relation `sameButOf` is kept by every completed step, and related states have the same faults. -/
theorem ofNeverPropagates : Obligations.OfNeverPropagates :=
  fun _ _ _ h => ⟨fun _ hrun => reaches_of_sameButOf h hrun, fun _ hrun => run_fault_of_sameButOf h hrun⟩

end Sys2Proof.Machine
end
